-- ==== Sys2Proof/Word.lean ====
section
/-! DEFINITION. The word and byte types of the LDAC frame-decode core.
Every register is 32 bits wide (R21), the RAMs are byte memories (R60). -/

namespace Sys2Proof

/-- A register or array cell: 32 bits (R21). -/
abbrev Word := BitVec 32

/-- One byte of `IN_BUF` or `OUT_BUF` (R60). -/
abbrev Byte := BitVec 8

/-- An integer stored into an int32 cell is taken modulo 2^32 as two's complement (R8). -/
abbrev Word.ofInt (x : Int) : Word := BitVec.ofInt 32 x

/-- A natural number stored into a 32-bit unsigned register. -/
abbrev Word.ofNat (x : Nat) : Word := BitVec.ofNat 32 x

end Sys2Proof
end

