-- ==== Sys2Proof/Syntax.lean ====
section
/-! DEFINITION. The command set as syntax: one constructor of `Instr` per row of the opcode table (R82). -/

namespace Sys2Proof

/-- A channel state slot `CH`, the `c0` or `c1` of the assembler (R40, R80, R84). -/
inductive Chan where
  | c0
  | c1
deriving DecidableEq, Repr, Inhabited

/-- The local channel index `LCH` within a sub-block, which selects the scale-factor scheme (R80, R170). -/
inductive LocalCh where
  | l0
  | l1
deriving DecidableEq, Repr, Inhabited

/-- The commands of R82. `n` is the bit width field `N`, `t` the Huffman table id field `T`, `c` and `l` the
channel fields `CH` and `LCH` (R80, R81). `n` and `t` are plain numbers here; `Instr.wellFormed` bounds them. -/
inductive Instr where
  /-- no operation (R241) -/
  | nop
  /-- build the lookup tables (R242) -/
  | init
  /-- decode one whole frame (R255) -/
  | decodeFrame
  /-- peek `n` bits (R115) -/
  | brPeek (n : Nat)
  /-- read `n` bits unsigned (R116) -/
  | brRead (n : Nat)
  /-- read `n` bits, sign-extended (R117) -/
  | brReadSigned (n : Nat)
  /-- read an `n`-bit offset-binary field (R118) -/
  | brReadOb (n : Nat)
  /-- align the cursor to a multiple of `ARG` (R119) -/
  | brAlign
  /-- decode one symbol from codebook `t` (R134) -/
  | huffDecode (t : Nat)
  /-- read the frame header (R244) -/
  | parseHeader
  /-- read the band-count field (R247) -/
  | parseBand
  /-- read the gradient parameters (R248) -/
  | parseGradient
  /-- compute `GRADIENT` (R150) -/
  | gradientBuild
  /-- compute `PMASK[c]` (R154) -/
  | pmaskBuild (c : Chan)
  /-- compute `PREC[c]` and `PRECF[c]` (R155) -/
  | precisionCalc (c : Chan)
  /-- decode the scale factors of one channel (R170) -/
  | sfDecode (c : Chan) (l : LocalCh)
  /-- read the coarse quantized spectrum (R191) -/
  | specDecode (c : Chan)
  /-- read the fine residuals (R195) -/
  | specFineDecode (c : Chan)
  /-- dequantize one channel (R210) -/
  | dequant (c : Chan)
  /-- apply the scale factors (R212) -/
  | scale (c : Chan)
  /-- inverse transform with overlap-add (R226) -/
  | imdct (c : Chan)
  /-- interleave one frame's PCM into `OUT_BUF` (R252) -/
  | pcmOut
deriving DecidableEq, Repr

end Sys2Proof
end

