-- ==== Sys2Proof/WellFormed.lean ====
section
/-! DEFINITION. Which commands have a legal command word (R80, R83). -/

namespace Sys2Proof

/-- Field `N` has six bits. 33..63 is legal at decode and raises `BAD_WIDTH` when the command runs (R80, R83). -/
def widthFieldOk (n : Nat) : Bool := decide (n < 64)

/-- `T` names one of the 13 codebooks; 13..15 is an illegal encoding (R83). -/
def tableFieldOk (t : Nat) : Bool := decide (t ≤ 12)

/-- `SF_DECODE` with `LCH = 1` and `CH = 0` is an illegal encoding (R83). -/
def channelFieldsOk : Chan → LocalCh → Bool
  | .c0, .l1 => false
  | .c0, .l0 => true
  | .c1, .l0 => true
  | .c1, .l1 => true

/-- The commands that some legal command word stands for. -/
def Instr.wellFormed : Instr → Bool
  | .nop => true
  | .init => true
  | .decodeFrame => true
  | .brPeek n => widthFieldOk n
  | .brRead n => widthFieldOk n
  | .brReadSigned n => widthFieldOk n
  | .brReadOb n => widthFieldOk n
  | .brAlign => true
  | .huffDecode t => tableFieldOk t
  | .parseHeader => true
  | .parseBand => true
  | .parseGradient => true
  | .gradientBuild => true
  | .pmaskBuild _ => true
  | .precisionCalc _ => true
  | .sfDecode c l => channelFieldsOk c l
  | .specDecode _ => true
  | .specFineDecode _ => true
  | .dequant _ => true
  | .scale _ => true
  | .imdct _ => true
  | .pcmOut => true

end Sys2Proof
end

