-- ==== Sys2Proof/Decode.lean ====
section
/-! DEFINITION. The decoder of command words (R80 to R83), total on any word and any byte string, and after it
the encoder, written from the same table. -/

namespace Sys2Proof

/-- One row of the opcode map of R82. -/
structure OpcodeRow where
  mnemonic : String
  mask : Word
  matchBits : Word
deriving DecidableEq, Repr

/-- The opcode map of R82, row by row. -/
def opcodeMap : List OpcodeRow :=
  [⟨"NOP", 0xFFFFFFFF, 0x00000000⟩, ⟨"INIT", 0xFFFFFFFF, 0x00000001⟩, ⟨"DECODE_FRAME", 0xFFFFFFFF, 0x00000002⟩,
   ⟨"BR_PEEK", 0xFFFF03FF, 0x00000010⟩, ⟨"BR_READ", 0xFFFF03FF, 0x00000011⟩,
   ⟨"BR_READ_SIGNED", 0xFFFF03FF, 0x00000012⟩, ⟨"BR_READ_OB", 0xFFFF03FF, 0x00000013⟩] ++
  [⟨"BR_ALIGN", 0xFFFFFFFF, 0x00000014⟩, ⟨"HUFF_DECODE", 0xFFF0FFFF, 0x00000020⟩,
   ⟨"PARSE_HEADER", 0xFFFFFFFF, 0x00000030⟩, ⟨"PARSE_BAND", 0xFFFFFFFF, 0x00000031⟩,
   ⟨"PARSE_GRADIENT", 0xFFFFFFFF, 0x00000032⟩, ⟨"GRADIENT_BUILD", 0xFFFFFFFF, 0x00000033⟩,
   ⟨"PMASK_BUILD", 0xFFFFFEFF, 0x00000034⟩, ⟨"PRECISION_CALC", 0xFFFFFEFF, 0x00000035⟩] ++
  [⟨"SF_DECODE", 0xFFFFFCFF, 0x00000040⟩, ⟨"SPEC_DECODE", 0xFFFFFEFF, 0x00000050⟩,
   ⟨"SPEC_FINE_DECODE", 0xFFFFFEFF, 0x00000051⟩, ⟨"DEQUANT", 0xFFFFFEFF, 0x00000060⟩,
   ⟨"SCALE", 0xFFFFFEFF, 0x00000061⟩, ⟨"IMDCT", 0xFFFFFEFF, 0x00000070⟩, ⟨"PCM_OUT", 0xFFFFFFFF, 0x00000078⟩]

/-- A word selects a row when `w & mask = match` (R82). -/
def matchesRow (w mask matchBits : Word) : Bool := w &&& mask == matchBits

/-- Field `CH`, w[8] (R80). -/
def chField (w : Word) : Chan := if w.getLsbD 8 then .c1 else .c0

/-- Field `LCH`, w[9] (R80). -/
def lchField (w : Word) : LocalCh := if w.getLsbD 9 then .l1 else .l0

/-- Field `N`, zext_6(w[15:10]) (R81). -/
def nField (w : Word) : Nat := (w.extractLsb' 10 6).toNat

/-- Field `T`, zext_4(w[19:16]) (R81). -/
def tField (w : Word) : Nat := (w.extractLsb' 16 4).toNat

/-- The row a word matches, before the two extra cases of R83. -/
def decodeRow (w : Word) : Option Instr :=
  if matchesRow w 0xFFFFFFFF 0x00000000 then some .nop
  else if matchesRow w 0xFFFFFFFF 0x00000001 then some .init
  else if matchesRow w 0xFFFFFFFF 0x00000002 then some .decodeFrame
  else if matchesRow w 0xFFFF03FF 0x00000010 then some (.brPeek (nField w))
  else if matchesRow w 0xFFFF03FF 0x00000011 then some (.brRead (nField w))
  else if matchesRow w 0xFFFF03FF 0x00000012 then some (.brReadSigned (nField w))
  else if matchesRow w 0xFFFF03FF 0x00000013 then some (.brReadOb (nField w))
  else if matchesRow w 0xFFFFFFFF 0x00000014 then some .brAlign
  else if matchesRow w 0xFFF0FFFF 0x00000020 then some (.huffDecode (tField w))
  else if matchesRow w 0xFFFFFFFF 0x00000030 then some .parseHeader
  else if matchesRow w 0xFFFFFFFF 0x00000031 then some .parseBand
  else if matchesRow w 0xFFFFFFFF 0x00000032 then some .parseGradient
  else if matchesRow w 0xFFFFFFFF 0x00000033 then some .gradientBuild
  else if matchesRow w 0xFFFFFEFF 0x00000034 then some (.pmaskBuild (chField w))
  else if matchesRow w 0xFFFFFEFF 0x00000035 then some (.precisionCalc (chField w))
  else if matchesRow w 0xFFFFFCFF 0x00000040 then some (.sfDecode (chField w) (lchField w))
  else if matchesRow w 0xFFFFFEFF 0x00000050 then some (.specDecode (chField w))
  else if matchesRow w 0xFFFFFEFF 0x00000051 then some (.specFineDecode (chField w))
  else if matchesRow w 0xFFFFFEFF 0x00000060 then some (.dequant (chField w))
  else if matchesRow w 0xFFFFFEFF 0x00000061 then some (.scale (chField w))
  else if matchesRow w 0xFFFFFEFF 0x00000070 then some (.imdct (chField w))
  else if matchesRow w 0xFFFFFFFF 0x00000078 then some .pcmOut
  else none

/-- The decoder: `none` is an illegal word, which acceptance answers with `ILLEGAL_CMD` (R83, R240). -/
def decodeWord (w : Word) : Option Instr :=
  (decodeRow w).filter Instr.wellFormed

/-- The decoder on bytes in the host's order, little-endian (R64). A command is exactly one word long (R80);
the bytes after it are left over, fewer than four bytes are no command. -/
def decodeBytes : List Byte → Option (Instr × List Byte)
  | b0 :: b1 :: b2 :: b3 :: rest => (decodeWord (b3 ++ b2 ++ b1 ++ b0)).map (·, rest)
  | [] => none
  | [_] => none
  | [_, _] => none
  | [_, _, _] => none

/-- The four bytes of a word as the host lays it out, least significant first (R64). -/
def wordBytes (w : Word) : List Byte :=
  [w.extractLsb' 0 8, w.extractLsb' 8 8, w.extractLsb' 16 8, w.extractLsb' 24 8]

/-- The decoder's reading of a word numbered as the opcode table numbers it: bit 0 is the least significant bit of
the one 32-bit word of a command. A number that needs more than 32 bits is no command word. -/
def decodeTableWord (nbits w : Nat) : Option Instr :=
  if nbits ≤ 32 ∧ w < 2 ^ nbits then (decodeBytes (wordBytes (BitVec.ofNat 32 w))).map Prod.fst else none

/-! ### The encoder -/

/-- `CH` in place. -/
def chBits : Chan → Word
  | .c0 => 0
  | .c1 => 0x100

/-- `LCH` in place. -/
def lchBits : LocalCh → Word
  | .l0 => 0
  | .l1 => 0x200

/-- `N` in place. -/
def nBits (n : Nat) : Word := BitVec.ofNat 32 (n % 64) <<< 10

/-- `T` in place. -/
def tBits (t : Nat) : Word := BitVec.ofNat 32 (t % 16) <<< 16

/-- The command word of a command (R80 to R82). -/
def encode : Instr → Word
  | .nop => 0x00000000
  | .init => 0x00000001
  | .decodeFrame => 0x00000002
  | .brPeek n => 0x00000010 ||| nBits n
  | .brRead n => 0x00000011 ||| nBits n
  | .brReadSigned n => 0x00000012 ||| nBits n
  | .brReadOb n => 0x00000013 ||| nBits n
  | .brAlign => 0x00000014
  | .huffDecode t => 0x00000020 ||| tBits t
  | .parseHeader => 0x00000030
  | .parseBand => 0x00000031
  | .parseGradient => 0x00000032
  | .gradientBuild => 0x00000033
  | .pmaskBuild c => 0x00000034 ||| chBits c
  | .precisionCalc c => 0x00000035 ||| chBits c
  | .sfDecode c l => 0x00000040 ||| chBits c ||| lchBits l
  | .specDecode c => 0x00000050 ||| chBits c
  | .specFineDecode c => 0x00000051 ||| chBits c
  | .dequant c => 0x00000060 ||| chBits c
  | .scale c => 0x00000061 ||| chBits c
  | .imdct c => 0x00000070 ||| chBits c
  | .pcmOut => 0x00000078

end Sys2Proof
end

