-- ==== Sys2Proof/Config.lean ====
section
/-! DEFINITION. What is fixed when the block is built: the parameters of R6 and 92.2 that the spec leaves OPEN or gives a
default, the constraints under which a configuration is well-formed (R55, R130, R190), and the values the spec calls unspecified. -/

namespace Sys2Proof

/-! ### Fixed parameters: marked source or decided in R6 -/

/-- `SYNC_BITS` (R6; 90_conflicts.md C5). -/
def Config.syncBits : Nat := 8

/-- `GMODE_BITS` (R6). -/
def Config.gmodeBits : Nat := 2

/-- `GRAD_M1_END_VALUE` (R249). -/
def Config.gradM1EndValue : Nat := 31

/-- `SF_A_BASE` (R171). -/
def Config.sfABase : Nat := 3

/-- `SF_C_BASE` (R174). -/
def Config.sfCBase : Nat := 2

/-- `SF_MODE_BITS`, `SF_BLEN_SEL_BITS`, `SF_WEIGHT_BITS` (R6). -/
def Config.sfModeBits : Nat := 1

/-- `SF_BLEN_SEL_BITS` (R6). -/
def Config.sfSelBits : Nat := 2

/-- `SF_WEIGHT_BITS` (R6). -/
def Config.sfWeightBits : Nat := 3

/-- `SF_B_RAW_THRESHOLD` (R173). -/
def Config.sfBRawThreshold : Nat := 4

/-- `SF_B_RAW_BITS` (R173). -/
def Config.sfBRawBits : Nat := 5

/-- `JOINT2_BITS` (R192). -/
def Config.joint2Bits : Nat := 3

/-- `JOINT4_BITS` (R193; 90_conflicts.md C2). -/
def Config.joint4Bits : Nat := 7

/-- `BLOCK_ALIGN_BITS` (R257). -/
def Config.blockAlignBits : Nat := 8

/-- `MAX_QU` (R6). -/
def Config.maxQu : Nat := 34

/-! ### Defaults of adjustable parameters: decided in R6 and 92.2 -/

/-- The default of `GRAD_M1_END_UNIT`; 31 is the variant (R6, R249; 90_conflicts.md C3). -/
def Config.gradM1EndUnitDefault : Nat := 26

/-- The default of `IN_BUF_BYTES` (R6; 92_eei_decisions.md D3). -/
def Config.inBufBytesDefault : Nat := 4096

/-- The default of `OUT_BUF_BYTES` (R6; 92_eei_decisions.md D3). -/
def Config.outBufBytesDefault : Nat := 4096

/-! ### The parameters -/

/-- One codebook of `HUFF_ROM` (R91): `VB`, `SGN`, `MAXB`, `BITS[]`, `CODES[]`. `BITS = 0` marks an unused symbol. -/
structure HuffTable where
  vb : Nat
  sgn : Bool
  maxb : Nat
  bits : List Nat
  codes : List Nat
deriving DecidableEq, Repr

/-- What one channel-configuration code stands for: `NCH_OF_CCID`, `BLOCKS_OF_CCID`, `CHB_OF_CCID` (R245). -/
structure CcidEntry where
  nch : Nat
  blocks : Nat
  chb : Nat
deriving DecidableEq, Repr

/-- The layout of one quantization unit: `ISP[i]`, `NSPS[i]` (R6, R190). -/
structure UnitLayout where
  isp : Nat
  nsps : Nat
deriving DecidableEq, Repr

/-- The OPEN and adjustable parameters of R6 and 92.2, as raw data. A selector without an entry is invalid. A field has a
default where R6 gives one; the rows of `TRIG_ROM` and `WINDOW_ROM` have theirs in `usesDefaultTables` (R220, R222). -/
structure Config where
  /-- `SYNC_WORD` -/
  syncWord : Nat
  /-- `SRID_BITS` -/
  sridBits : Nat
  /-- `CCID_BITS` -/
  ccidBits : Nat
  /-- `FLEN_BITS` -/
  flenBits : Nat
  /-- `FSTAT_BITS` -/
  fstatBits : Nat
  /-- `FLEN_OFFSET` -/
  flenOffset : Nat
  /-- `FLEN_ADJ`; the spec does not say it is positive -/
  flenAdj : Int
  /-- `FBITS_OF_SRID` -/
  fbitsOfSrid : List (Option Nat)
  /-- `NCH_OF_CCID`, `BLOCKS_OF_CCID`, `CHB_OF_CCID` -/
  ccidRom : List (Option CcidEntry)
  /-- `BAND_BITS` -/
  bandBits : Nat
  /-- `BAND_OFFSET` -/
  bandOffset : Nat
  /-- `BAND_FLAG_BITS` -/
  bandFlagBits : Nat
  /-- `NQU_ROM`; its length is `NQU_ROM_ENTRIES` (R247) -/
  nquRom : List Nat
  /-- `GSU0_BITS` -/
  gsu0Bits : Nat
  /-- `GEU0_BITS` -/
  geu0Bits : Nat
  /-- `GEU0_OFFSET` -/
  geu0Offset : Nat
  /-- `GSV_BITS` -/
  gsvBits : Nat
  /-- `GEV_BITS` -/
  gevBits : Nat
  /-- `GSU1_BITS` -/
  gsu1Bits : Nat
  /-- `GBND_BITS` -/
  gbndBits : Nat
  /-- `GRAD_M1_END_UNIT` (R249; 90_conflicts.md C3) -/
  gradM1EndUnit : Nat := Config.gradM1EndUnitDefault
  /-- `SF_OFFSET_BITS` -/
  sfOffsetBits : Nat
  /-- `SF_B_BASE` -/
  sfBBase : Nat
  /-- `WEIGHT_ROM` -/
  weightRom : List (List Nat)
  /-- `HUFF_ROM` -/
  huffRom : List HuffTable
  /-- `CURVE_ROM`; its length is `CURVE_SPANS` -/
  curveRom : List (List Nat)
  /-- `QU_ROM` -/
  quRom : List UnitLayout
  /-- `JOINT2_ROM`; `none` is `INVALID` (R92) -/
  joint2Rom : List (Option Nat)
  /-- `JOINT4_ROM`; `none` is `INVALID` (R92) -/
  joint4Rom : List (Option Nat)
  /-- `STEP_ROM` -/
  stepRom : List Word
  /-- `FINE_STEP_ROM` -/
  fineStepRom : List Word
  /-- `TRIG_ROM`, the rows `TSIN[k]` (R220) -/
  tsin : List (List Word)
  /-- `TRIG_ROM`, the rows `TCOS[k]` (R220) -/
  tcos : List (List Word)
  /-- `WINDOW_ROM`, `IW[7]` (R222) -/
  window7 : List Word
  /-- `WINDOW_ROM`, `IW[8]` (R222) -/
  window8 : List Word
  /-- `IMDCT_SCALE[7]` -/
  imdctScale7 : Word
  /-- `IMDCT_SCALE[8]` -/
  imdctScale8 : Word
  /-- `MARGIN_BYTES` -/
  marginBytes : Nat
  /-- `IN_BUF_BYTES` -/
  inBufBytes : Nat := Config.inBufBytesDefault
  /-- `OUT_BUF_BYTES` -/
  outBufBytes : Nat := Config.outBufBytesDefault
  /-- `BLOCK_BASE`, the platform's placement of the block's window (R60) -/
  blockBase : Nat
deriving DecidableEq, Repr

/-! ### Well-formed configurations -/

/-- The configuration keeps the defaults of R6: `GRAD_M1_END_UNIT` 26, `IN_BUF_BYTES` and `OUT_BUF_BYTES` 4096 (92.2). Each
is a parameter and may be set otherwise. -/
def Config.usesDefaultParameters (c : Config) : Bool :=
  c.gradM1EndUnit == gradM1EndUnitDefault && c.inBufBytes == inBufBytesDefault && c.outBufBytes == outBufBytesDefault

/-- `r` holds between every element of a list and every later one. -/
def allPairs {α : Type} (r : α → α → Bool) : List α → Bool
  | [] => true
  | x :: xs => xs.all (r x) && allPairs r xs

/-- The used symbols of a codebook in symbol order, as (length, code). -/
def HuffTable.used (t : HuffTable) : List (Nat × Nat) :=
  (t.bits.zip t.codes).filter (fun e => e.1 != 0)

/-- Table `t` is *empty*: every `BITS` is 0 (R132, R133). -/
def HuffTable.isEmpty (t : HuffTable) : Bool := t.bits.all (· == 0)

/-- Code `a` is an initial part of code `b`; each is (length, code). -/
def codeStarts (a b : Nat × Nat) : Bool := decide (a.1 ≤ b.1) && b.2 >>> (b.1 - a.1) == a.2

/-- The used codes form a prefix-free set (R130). -/
def HuffTable.prefixFree (t : HuffTable) : Bool :=
  allPairs (fun a b => !codeStarts a b && !codeStarts b a) t.used

/-- The codes are canonical, indexed by symbol (R130). The spec does not define the word; PRESUMED: left-aligned in
`MAXB` bits the codes increase in the order (length, symbol). `safe`: a table in another order is refused (log 6). -/
def HuffTable.canonical (t : HuffTable) : Bool :=
  allPairs (fun a b =>
    let left (e : Nat × Nat) := e.2 <<< (t.maxb - e.1)
    if a.1 ≤ b.1 then decide (left a < left b) else decide (left b < left a)) t.used

/-- The constraints of R91, R130 and R132 on the codebook with identifier `id`. -/
def HuffTable.wf (id : Nat) (t : HuffTable) : Bool :=
  t.vb == (if id < 7 then id else id - 7) && t.sgn == decide (7 ≤ id) &&
  t.bits.length == 2 ^ t.vb && t.codes.length == 2 ^ t.vb &&
  decide (t.maxb ≤ 32) && t.bits.all (fun b => decide (b ≤ t.maxb)) &&
  t.used.all (fun e => decide (e.2 < 2 ^ e.1)) && t.prefixFree && t.canonical &&
  (if id ∈ [0, 1, 2, 7, 8] then t.maxb == 0 else true)

/-- Header, frame and size parameters (R6, 92.2). The bounds that follow from a register's width and not from a row
of 92.2 (`FLEN_ADJ`, the 32-bit limit on read widths, the table length behind `NBANDS`) are DEDUCED (log 7). -/
def Config.headerOk (c : Config) : Bool :=
  decide (c.syncWord < 2 ^ syncBits) && decide (c.sridBits ≤ 8) && decide (c.ccidBits ≤ 8) &&
  decide (c.flenBits ≤ 16) && decide (c.fstatBits ≤ 8) &&
  decide (2 ^ c.flenBits - 1 + c.flenOffset < 2 ^ 16) && decide (c.flenAdj < 2 ^ 28) &&
  c.fbitsOfSrid.all (fun e => e == none || e == some 7 || e == some 8) &&
  c.ccidRom.all (fun e => match e with
    | none => true
    | some r => (r.nch == 1 || r.nch == 2) && r.blocks * r.chb == r.nch) &&
  decide (c.inBufBytes ≤ 65536) && decide (c.outBufBytes ≤ 131072) &&
  c.huffRom.all (fun t => decide (t.maxb ≤ 8 * c.marginBytes))

/-- Band and gradient parameters (92.2: `NQU_ROM` entries at most 34; every gradient value fits 8 bits). -/
def Config.bandOk (c : Config) : Bool :=
  decide (c.bandBits ≤ 32) && decide (c.bandFlagBits ≤ 32) &&
  c.nquRom.all (fun q => decide (q ≤ 34)) && decide (c.nquRom.length ≤ 256) &&
  decide (c.gsu0Bits ≤ 8) && decide (2 ^ c.geu0Bits - 1 + c.geu0Offset < 2 ^ 8) &&
  decide (c.gsvBits ≤ 8) && decide (c.gevBits ≤ 8) && decide (c.gsu1Bits ≤ 8) && decide (c.gbndBits ≤ 8) &&
  decide (c.gradM1EndUnit < 2 ^ 8) &&
  c.curveRom.all (fun r => r.all (fun e => decide (e ≤ 255))) &&
  (List.range c.curveRom.length).all (fun r => decide (r + 1 ≤ (c.curveRom.getD r []).length))

/-- Scale-factor parameters (R6, R172; `SFOFF` and `SFBLEN` hold what R171 to R174 write, R50). -/
def Config.scaleFactorOk (c : Config) : Bool :=
  decide (c.sfOffsetBits ≤ 8) && decide (2 ≤ c.sfBBase) && decide (c.sfBBase + 3 < 2 ^ 4) &&
  c.weightRom.length == 8 && c.weightRom.all (fun r => r.length == 34 && r.all (fun e => decide (e ≤ 255)))

/-- The 13 codebooks (R130, R132). -/
def Config.huffOk (c : Config) : Bool :=
  c.huffRom.length == 13 && (c.huffRom.zipIdx).all (fun e => e.1.wf e.2)

/-- The unit layout constraints of R190. -/
def Config.layoutOk (c : Config) : Bool :=
  c.quRom.length == 34 &&
  c.quRom.all (fun u => decide (1 ≤ u.nsps) && decide (u.isp + u.nsps ≤ 256) && (u.nsps == 2 || u.nsps % 4 == 0)) &&
  (c.quRom.getD 0 ⟨0, 0⟩).isp == 0 &&
  (List.range 33).all (fun i =>
    (c.quRom.getD (i + 1) ⟨0, 0⟩).isp == (c.quRom.getD i ⟨0, 0⟩).isp + (c.quRom.getD i ⟨0, 0⟩).nsps)

/-- Joint-code, step, trigonometric and window tables: sizes and entry widths (R92, R210, R220, R222). -/
def Config.tablesOk (c : Config) : Bool :=
  c.joint2Rom.length == 8 && c.joint2Rom.all (fun e => decide (e.getD 0 < 2 ^ 4)) &&
  c.joint4Rom.length == 256 && c.joint4Rom.all (fun e => decide (e.getD 0 < 2 ^ 8)) &&
  c.stepRom.length == 16 && c.fineStepRom.length == 16 &&
  c.tsin.length == 9 && c.tcos.length == 9 &&
  (List.range 9).all (fun k => (c.tsin.getD k []).length == 2 ^ k && (c.tcos.getD k []).length == 2 ^ k) &&
  c.window7.length == 128 && c.window8.length == 256

/-- A configuration that breaks a ROM constraint is ill-formed (R55). -/
def Config.wf (c : Config) : Bool :=
  c.headerOk && c.bandOk && c.scaleFactorOk && c.huffOk && c.layoutOk && c.tablesOk

/-- An empty codebook with identifier `id` (R132). -/
def HuffTable.blank (id : Nat) : HuffTable :=
  let vb := if id < 7 then id else id - 7
  ⟨vb, decide (7 ≤ id), 0, List.replicate (2 ^ vb) 0, List.replicate (2 ^ vb) 0⟩

/-- A configuration that shows only that well-formed ones exist. Its OPEN fields are no defaults, nothing takes a value from
them; the fields that R6 gives a default keep it. -/
def Config.witness : Config where
  syncWord := 0
  sridBits := 0
  ccidBits := 0
  flenBits := 0
  fstatBits := 0
  flenOffset := 0
  flenAdj := 0
  fbitsOfSrid := []
  ccidRom := []
  bandBits := 0
  bandOffset := 0
  bandFlagBits := 0
  nquRom := []
  gsu0Bits := 0
  geu0Bits := 0
  geu0Offset := 0
  gsvBits := 0
  gevBits := 0
  gsu1Bits := 0
  gbndBits := 0
  sfOffsetBits := 0
  sfBBase := 2
  weightRom := List.replicate 8 (List.replicate 34 0)
  huffRom := (List.range 13).map HuffTable.blank
  curveRom := []
  quRom := (List.range 34).map (fun i => ⟨2 * i, 2⟩)
  joint2Rom := List.replicate 8 none
  joint4Rom := List.replicate 256 none
  stepRom := List.replicate 16 0
  fineStepRom := List.replicate 16 0
  tsin := (List.range 9).map (fun k => List.replicate (2 ^ k) 0)
  tcos := (List.range 9).map (fun k => List.replicate (2 ^ k) 0)
  window7 := List.replicate 128 0
  window8 := List.replicate 256 0
  imdctScale7 := 0
  imdctScale8 := 0
  marginBytes := 0
  blockBase := 0

/-- A configuration together with the proof that it is well-formed. An ill-formed configuration is refused (R55,
R130, R190): no value of this type holds one. The defaults only show the type inhabited, for `Config.params`. -/
structure ValidConfig where
  rom : Config := Config.witness
  ok : rom.wf = true := by decide +kernel
deriving DecidableEq, Repr, Inhabited

/-- The configuration the block was built with: any well-formed one. It has no body, so no proof can see its values
(R6: an OPEN parameter may not be given a value silently; R55: a model takes them as arguments). -/
opaque Config.params : ValidConfig

/-! ### Values the spec calls unspecified -/

/-- A register or array cell whose value some rule leaves unspecified: the key of `Config.freeWord`. -/
inductive Cell where
  | result
  | brPos
  | hdr
  | flen
  | geom
  | gparam0
  | gparam1
  | gradient (i : Nat)
  | sf (c : Chan) (i : Nat)
  | prec (c : Chan) (i : Nat)
  | precf (c : Chan) (i : Nat)
  | pmask (c : Chan) (i : Nat)
  | qspec (c : Chan) (sb : Nat)
  | qspecf (c : Chan) (sb : Nat)
  | spec (c : Chan) (sb : Nat)
  | pcm (c : Chan) (n : Nat)
  | workPrev (c : Chan) (n : Nat)
  | sfcfg (c : Chan)
  | mbits (c : Chan)
  | outPtr
  | outByte (a : Nat)
  /-- the data of a host read that returns an unspecified value (R21, R70) -/
  | busData
deriving DecidableEq, Repr

/-- An unspecified value of a cell, "any value, chosen by the environment" (R276, R21, R70, R300). The number is the
counter of the state at that moment, so each occasion has a value of its own. No body: nothing constrains it. -/
opaque Config.freeWord : Nat → Cell → Word

/-- The two byte memories of R60. -/
inductive Ram where
  | input
  | output
deriving DecidableEq, Repr

/-- What a byte of RAM holds that nothing has written since the reset with the given number: unspecified (R300). -/
opaque Config.ramByte : Nat → Ram → Nat → Byte

/-- The arithmetic operations of R10 that can produce a NaN. -/
inductive FpOp where
  | add
  | sub
  | mul
deriving DecidableEq, Repr

/-- Sign and payload of the NaN an operation delivers. IEEE 754 leaves them open and so does R10; a function of the
operation and its operands, with no body. DESIGN CHOICE, `unsafe` for a block that varies them (log 8). -/
opaque Config.nanBits : FpOp → Word → Word → Word

end Sys2Proof
end

