-- ==== Sys2Proof/Machine/State.lean ====
section
/-! DEFINITION. The state of the block (R20 to R56), its outcomes, and the state after reset (R300). -/

namespace Sys2Proof.Machine

/-- A per-unit array, 34 int32 cells (R35, R41 to R44). -/
abbrev Units := Vector Word 34

/-- A per-line array, 256 int32 or binary32 cells (R45 to R49, R52). -/
abbrev Lines := Vector Word 256

/-- A byte RAM: the bytes written since reset, addresses strictly rising. An address without an entry has not been
written and holds an unspecified byte (R300). -/
abbrev Memory := List Host.Cell

/-- The slots `lo ≤ s < hi` of a Huffman lookup table that hold the symbol `sym` (R131). -/
structure LutRun where
  lo : Nat
  hi : Nat
  sym : Nat
deriving DecidableEq, Repr, Inhabited

/-- `CTRL` (R24). -/
structure Ctrl where
  /-- `IRQ_EN` [0] -/
  irqEn : Bool
  /-- `OUT_FMT` [1]: false is signed 16-bit, true is binary32 -/
  outFmt : Bool
deriving DecidableEq, Repr

/-- `STATUS` (R25). -/
structure Status where
  /-- `BUSY` [0] -/
  busy : Bool
  /-- `DONE` [1] -/
  done : Bool
  /-- `ERR` [2] -/
  err : Bool
  /-- `FATAL` [3] -/
  fatal : Bool
  /-- `INIT_DONE` [4]; `TABLES_BUILT` (R54) is this bit's internal copy and shares its storage -/
  initDone : Bool
  /-- `ERR_CODE` [15:8] -/
  errCode : BitVec 8
deriving DecidableEq, Repr

/-- `HDR` (R30). -/
structure Hdr where
  srid : BitVec 8
  ccid : BitVec 8
  fstat : BitVec 8
deriving DecidableEq, Repr

/-- `GEOM` (R32). -/
structure Geom where
  nch : BitVec 2
  fbits : BitVec 4
  nbands : BitVec 8
  nqu : BitVec 8
deriving DecidableEq, Repr

/-- `GPARAM0` (R33). -/
structure GParam0 where
  gmode : BitVec 8
  gsu : BitVec 8
  geu : BitVec 8
  gbnd : BitVec 8
deriving DecidableEq, Repr

/-- `GPARAM1` (R34). -/
structure GParam1 where
  gsv : BitVec 8
  gev : BitVec 8
deriving DecidableEq, Repr

/-- `SFCFG[c]` (R50). -/
structure SfCfg where
  sfmode : BitVec 1
  sfblen : BitVec 4
  sfoff : BitVec 8
  sfwt : BitVec 3
deriving DecidableEq, Repr

/-- One channel state slot (R40 to R52). -/
structure Channel where
  /-- `SF[c]` (R41) -/
  sf : Units
  /-- `PREC[c]` (R42) -/
  prec : Units
  /-- `PRECF[c]` (R43) -/
  precf : Units
  /-- `PMASK[c]` (R44) -/
  pmask : Units
  /-- `QSPEC[c]` (R45) -/
  qspec : Lines
  /-- `QSPECF[c]` (R46) -/
  qspecf : Lines
  /-- `SPEC[c]`, binary32 (R47) -/
  spec : Lines
  /-- `PCM[c]`, binary32 (R48) -/
  pcm : Lines
  /-- `PREV[c]`, binary32, the overlap buffer (R49) -/
  prev : Lines
  /-- `WORK_PREV[c]`, binary32, the working copy inside `DECODE_FRAME` (R52) -/
  workPrev : Lines
  /-- `SFCFG[c]` (R50) -/
  sfcfg : SfCfg
  /-- `MBITS[c]` (R51) -/
  mbits : BitVec 4
deriving DecidableEq, Repr

/-- The width of a host access (R66). -/
inductive AccessWidth where
  | w8
  | w16
  | w32
deriving DecidableEq, Repr

/-- What the outside world does to the block next: a host access at an 18-bit block offset (R60), or the platform's
reset input (R300). A narrow access carries its data in the low bits of the word (DESIGN CHOICE, log 24). -/
inductive HostAction where
  | read (width : AccessWidth) (offset : BitVec 18)
  | write (width : AccessWidth) (offset : BitVec 18) (data : Word)
  | reset
deriving DecidableEq, Repr

/-- The errors of R270. -/
inductive ErrCode where
  | sync
  | badWidth
  | badTable
  | huffInvalid
  | jointInvalid
  | indexRange
  | overrun
  | illegalCmd
  | notInit
  | frameOverrun
  | outRange
  | badSize
deriving DecidableEq, Repr

/-- `raise E(info)` (R11): the error, the bit position `ERR_POS` takes (R271), and where `BR_POS` stands, which an
`OVERRUN` leaves at the start of the field (R112). The descriptive `info` is not recorded. -/
structure Raise where
  err : ErrCode
  pos : Nat
  cursor : Nat
deriving DecidableEq, Repr

/-- The machine never stops with a fault: every error of R270 is reported in `STATUS` and the block goes on, or
latches `FATAL` and ignores commands (R275). So this type has no constructor. -/
inductive Fault where
deriving DecidableEq, Repr

/-- Why a step has no meaning. -/
inductive Refusal where
  /-- An instruction without a meaning yet, raised in `exec`'s arms only; safe. No arm uses it. -/
  | notModelled (mnemonic : String)
  /-- Raised by `step` for a host access that R66 does not admit (misaligned, of a wrong width, beyond a RAM) and for a
  write while busy to anything but `STATUS`: "A model gives no step to a host action that breaks" one of R72's duties.
  Safe: nothing is claimed of what follows. -/
  | hostDutyViolation
deriving DecidableEq, Repr

/-- The state. The fields down to `outBuf` are the spec's; `cfg`, `hostQueue`, `hostData`, `freeCtr` and `ramEpoch`
are the model's own. -/
structure State where
  /-- the configuration the block was built with (R55); no step changes it -/
  cfg : ValidConfig
  ctrl : Ctrl
  status : Status
  /-- `CMD_LAST` (R23) -/
  cmdLast : Word
  arg : Word
  result : Word
  /-- `BR_POS`, the bit reader's cursor (R28) -/
  brPos : Word
  inLen : Word
  /-- `OUT_PTR` [31:2]; bits [1:0] are hardwired to 0 (R36) -/
  outPtr : BitVec 30
  bytesConsumed : Word
  errPos : Word
  errCmd : Word
  hdr : Hdr
  /-- `FLEN` [15:0] (R31) -/
  flen : BitVec 16
  geom : Geom
  gparam0 : GParam0
  gparam1 : GParam1
  /-- `GRADIENT` (R35) -/
  gradient : Units
  /-- channel slot 0 -/
  ch0 : Channel
  /-- channel slot 1 -/
  ch1 : Channel
  /-- `HLUT` (R53), one table per identifier; a slot in no run is `INVALID` -/
  hlut : Vector (List LutRun) 13
  /-- `IN_BUF` (R60) -/
  inBuf : Memory
  /-- `OUT_BUF` (R60) -/
  outBuf : Memory
  /-- what the host and the platform do next, in the host's program order (R71) -/
  hostQueue : List HostAction
  /-- the data the host's last read returned; after a narrow read, zeros above its width (DESIGN CHOICE, log 24) -/
  hostData : Word
  /-- how many unspecified values have been drawn -/
  freeCtr : Nat
  /-- which reset the RAM contents date from -/
  ramEpoch : Nat
deriving DecidableEq, Repr

/-- A channel slot after reset (R300): everything 0 or +0.0, `WORK_PREV` unspecified. -/
def Channel.reset (k : Nat) (c : Chan) : Channel where
  sf := Vector.replicate 34 0
  prec := Vector.replicate 34 0
  precf := Vector.replicate 34 0
  pmask := Vector.replicate 34 0
  qspec := Vector.replicate 256 0
  qspecf := Vector.replicate 256 0
  spec := Vector.replicate 256 0
  pcm := Vector.replicate 256 0
  prev := Vector.replicate 256 0
  workPrev := Vector.ofFn (fun n => Config.freeWord k (.workPrev c n))
  sfcfg := ⟨0, 0, 0, 0⟩
  mbits := 0

/-- The block with configuration `cfg` right after reset (R300). `k` numbers the reset, for the values it leaves
unspecified. -/
def State.resetWith (cfg : ValidConfig) (k : Nat) : State where
  cfg := cfg
  ctrl := ⟨false, false⟩
  status := ⟨false, false, false, false, false, 0⟩
  cmdLast := 0
  arg := 0
  result := 0
  brPos := 0
  inLen := 0
  outPtr := 0
  bytesConsumed := 0
  errPos := 0
  errCmd := 0
  hdr := ⟨0, 0, 0⟩
  flen := 0
  geom := ⟨0, 0, 0, 0⟩
  gparam0 := ⟨0, 0, 0, 0⟩
  gparam1 := ⟨0, 0⟩
  gradient := Vector.replicate 34 0
  ch0 := Channel.reset k .c0
  ch1 := Channel.reset k .c1
  hlut := Vector.replicate 13 []
  inBuf := []
  outBuf := []
  hostQueue := []
  hostData := 0
  freeCtr := k + 1
  ramEpoch := k

/-- The machine right after reset (R300), with nothing asked of it. -/
def State.reset : State := State.resetWith Config.params 0

end Sys2Proof.Machine
end

