-- ==== Sys2Proof/Machine/Flags.lean ====
section
/-! DEFINITION. The flags: `STATUS` and the interrupt output. These are the block's only flags; no command sets one as a
side effect of arithmetic (R25). -/

namespace Sys2Proof.Machine

/-- The code of an error (R270). -/
def ErrCode.code : ErrCode → BitVec 8
  | .sync => 1
  | .badWidth => 2
  | .badTable => 3
  | .huffInvalid => 4
  | .jointInvalid => 5
  | .indexRange => 6
  | .overrun => 7
  | .illegalCmd => 8
  | .notInit => 9
  | .frameOverrun => 10
  | .outRange => 11
  | .badSize => 12

/-- Every error but `SYNC` is a contract violation and fatal (R270). -/
def ErrCode.fatal : ErrCode → Bool
  | .sync => false
  | .badWidth => true
  | .badTable => true
  | .huffInvalid => true
  | .jointInvalid => true
  | .indexRange => true
  | .overrun => true
  | .illegalCmd => true
  | .notInit => true
  | .frameOverrun => true
  | .outRange => true
  | .badSize => true

/-- The errors that `Peek`, `Read`, `Align` and `HuffDecode` raise (R110 to R114, R133). -/
def ErrCode.ofReader : ErrCode → Bool
  | .sync => false
  | .badWidth => true
  | .badTable => true
  | .huffInvalid => true
  | .jointInvalid => false
  | .indexRange => false
  | .overrun => true
  | .illegalCmd => false
  | .notInit => false
  | .frameOverrun => false
  | .outRange => false
  | .badSize => false

/-- Acceptance of a command: `DONE`, `ERR`, `ERR_CODE` cleared, `BUSY` set (R240). -/
def Status.accept (t : Status) : Status :=
  { t with done := false, err := false, errCode := 0, busy := true }

/-- The end of a command (R240). -/
def Status.complete (t : Status) : Status := { t with busy := false, done := true }

/-- The flags after `raise e` (R272). -/
def Status.raise (t : Status) (e : ErrCode) : Status :=
  { t with err := true, errCode := e.code, fatal := t.fatal || e.fatal, busy := false, done := true }

/-- A host write to `STATUS`: `DONE` is write-1-to-clear, `ERR` too while `FATAL = 0` (R25, R275). -/
def Status.hostWrite (t : Status) (w : Word) : Status :=
  { t with done := t.done && !w.getLsbD 1, err := t.err && !(w.getLsbD 2 && !t.fatal) }

/-- `STATUS` as the host reads it (R25); reserved bits read 0 (R21). -/
def Status.toWord (t : Status) : Word :=
  0#16 ++ t.errCode ++ 0#3 ++ BitVec.ofBool t.initDone ++ BitVec.ofBool t.fatal ++ BitVec.ofBool t.err ++
    BitVec.ofBool t.done ++ BitVec.ofBool t.busy

/-- `TABLES_BUILT` (R54). -/
def State.tablesBuilt (s : State) : Bool := s.status.initDone

/-- `IRQ = IRQ_EN ∧ (DONE ∨ ERR)` (R280). -/
def State.irq (s : State) : Bool := s.ctrl.irqEn && (s.status.done || s.status.err)

end Sys2Proof.Machine
end

