-- ==== Sys2Proof/Machine/Ops.lean ====
section
/-! DEFINITION. The named operations: byte memory, arrays, register words, channel slots, unspecified values, and the
end of a command, with or without an error. -/

namespace Sys2Proof.Machine

/-- The configuration's tables and parameters. -/
abbrev State.rom (s : State) : Config := s.cfg.rom

/-! ### Byte memory (R60, R63, R65) -/

/-- Addresses strictly rise, and all lie at or above `lo`. -/
def Memory.sortedFrom (lo : Nat) : Memory → Bool
  | [] => true
  | (a, _) :: m => decide (lo ≤ a) && Memory.sortedFrom (a + 1) m

/-- The canonical form: addresses strictly rising. An unlisted address reads as `none`, which no entry equals. -/
def Memory.wf (m : Memory) : Bool := Memory.sortedFrom 0 m

/-- The byte at an address; `none` where nothing has been written since reset. -/
def Memory.get? (m : Memory) (a : Nat) : Option Byte :=
  match m with
  | [] => none
  | (k, b) :: m => if k = a then some b else Memory.get? m a

/-- Write one byte, keeping the canonical form. -/
def Memory.put (m : Memory) (a : Nat) (b : Byte) : Memory :=
  match m with
  | [] => [(a, b)]
  | (k, x) :: m => if a < k then (a, b) :: (k, x) :: m else if a = k then (a, b) :: m else (k, x) :: Memory.put m a b

/-- Write consecutive bytes from an address upward. -/
def Memory.putBytes (m : Memory) (a : Nat) : List Byte → Memory
  | [] => m
  | b :: bs => Memory.putBytes (m.put a b) (a + 1) bs

/-- The byte `IN_BUF` holds at an offset; unspecified where never written (R110, R300). -/
def State.inByte (s : State) (a : Nat) : Byte := (s.inBuf.get? a).getD (Config.ramByte s.ramEpoch .input a)

/-- The byte `OUT_BUF` holds at an offset; unspecified where never written (R300). -/
def State.outByte (s : State) (a : Nat) : Byte := (s.outBuf.get? a).getD (Config.ramByte s.ramEpoch .output a)

/-- The low `n` bytes of a word, least significant first (R64, R65). -/
def leBytes (n : Nat) (w : Word) : List Byte := (List.range n).map (fun k => w.extractLsb' (8 * k) 8)

/-! ### Arrays -/

/-- Cell `i` of a unit array; the rules read indices below 34 only. -/
def Units.at (v : Units) (i : Nat) : Word := v.getD i 0

/-- Cell `i` of a unit array as the int32 it holds. -/
def Units.int (v : Units) (i : Nat) : Int := (Units.at v i).toInt

/-- `R[i] <- x` on a unit array. -/
def Units.put (v : Units) (i : Nat) (x : Word) : Units := v.setIfInBounds i x

/-- Cell `i` of a line array; the rules read indices below 256 only. -/
def Lines.at (v : Lines) (i : Nat) : Word := v.getD i 0

/-- Cell `i` of a line array as the int32 it holds. -/
def Lines.int (v : Lines) (i : Nat) : Int := (Lines.at v i).toInt

/-- `R[i] <- x` on a line array. -/
def Lines.put (v : Lines) (i : Nat) (x : Word) : Lines := v.setIfInBounds i x

/-- `for j in 0..n−1: R[start + j] <- f j`, in increasing order. -/
def Lines.fill (v : Lines) (start : Nat) (f : Nat → Word) (n : Nat) : Lines :=
  (List.range n).foldl (fun u j => Lines.put u (start + j) (f j)) v

/-- Consecutive lines from `start` upward. -/
def Lines.putList (v : Lines) (start : Nat) : List Word → Lines
  | [] => v
  | x :: xs => Lines.putList (Lines.put v start x) (start + 1) xs

/-- Every cell 0 or +0.0. -/
def Units.zero : Units := Vector.replicate 34 0

/-- Every cell 0 or +0.0. -/
def Lines.zero : Lines := Vector.replicate 256 0

/-! ### Channel slots (R40) -/

/-- Channel slot `c`. -/
def State.chan (s : State) : Chan → Channel
  | .c0 => s.ch0
  | .c1 => s.ch1

/-- Replace channel slot `c`. -/
def State.setChan (s : State) (c : Chan) (x : Channel) : State :=
  match c with
  | .c0 => { s with ch0 := x }
  | .c1 => { s with ch1 := x }

/-- The slot with number `k`; frames use 0 and 1 only (R245). -/
def Chan.ofNat (k : Nat) : Chan := if k = 0 then .c0 else .c1

/-- The local index with number `k`. -/
def LocalCh.ofNat (k : Nat) : LocalCh := if k = 0 then .l0 else .l1

/-! ### Registers as words: fields in place, reserved bits read 0 and ignore writes (R21 to R34, R50, R51) -/

/-- `CTRL` as a word (R24). -/
def Ctrl.toWord (r : Ctrl) : Word := 0#30 ++ BitVec.ofBool r.outFmt ++ BitVec.ofBool r.irqEn

/-- A word stored into `CTRL` (R24). -/
def Ctrl.ofWord (w : Word) : Ctrl := ⟨w.getLsbD 0, w.getLsbD 1⟩

/-- `HDR` as a word (R30). -/
def Hdr.toWord (r : Hdr) : Word := 0#8 ++ r.fstat ++ r.ccid ++ r.srid

/-- A word stored into `HDR` (R30). -/
def Hdr.ofWord (w : Word) : Hdr := ⟨w.extractLsb' 0 8, w.extractLsb' 8 8, w.extractLsb' 16 8⟩

/-- `GEOM` as a word (R32). -/
def Geom.toWord (r : Geom) : Word := r.nqu ++ r.nbands ++ 0#4 ++ r.fbits ++ 0#6 ++ r.nch

/-- A word stored into `GEOM` (R32). -/
def Geom.ofWord (w : Word) : Geom :=
  ⟨w.extractLsb' 0 2, w.extractLsb' 8 4, w.extractLsb' 16 8, w.extractLsb' 24 8⟩

/-- `GPARAM0` as a word (R33). -/
def GParam0.toWord (r : GParam0) : Word := r.gbnd ++ r.geu ++ r.gsu ++ r.gmode

/-- A word stored into `GPARAM0` (R33). -/
def GParam0.ofWord (w : Word) : GParam0 :=
  ⟨w.extractLsb' 0 8, w.extractLsb' 8 8, w.extractLsb' 16 8, w.extractLsb' 24 8⟩

/-- `GPARAM1` as a word (R34). -/
def GParam1.toWord (r : GParam1) : Word := 0#16 ++ r.gev ++ r.gsv

/-- A word stored into `GPARAM1` (R34). -/
def GParam1.ofWord (w : Word) : GParam1 := ⟨w.extractLsb' 0 8, w.extractLsb' 8 8⟩

/-- `SFCFG[c]` as a word (R50). -/
def SfCfg.toWord (r : SfCfg) : Word := 0#5 ++ r.sfwt ++ r.sfoff ++ 0#4 ++ r.sfblen ++ 0#7 ++ r.sfmode

/-- A word stored into `SFCFG[c]` (R50). -/
def SfCfg.ofWord (w : Word) : SfCfg :=
  ⟨w.extractLsb' 0 1, w.extractLsb' 8 4, w.extractLsb' 16 8, w.extractLsb' 24 3⟩

/-- `OUT_PTR` as a word: bits [1:0] are 0 (R36). -/
def State.outPtrWord (s : State) : Word := s.outPtr ++ 0#2

/-- A word stored into `OUT_PTR`: writes to bits [1:0] are ignored (R36). -/
def State.setOutPtr (s : State) (w : Word) : State := { s with outPtr := w.extractLsb' 2 30 }

/-- A word stored into `IN_LEN`: a value above `IN_BUF_BYTES` is stored as `IN_BUF_BYTES` (R29). -/
def State.setInLen (s : State) (w : Word) : State :=
  { s with inLen := Word.ofNat (min w.toNat s.rom.inBufBytes) }

/-- `BR_POS <- pos`. -/
def State.setBrPos (s : State) (pos : Nat) : State := { s with brPos := Word.ofNat pos }

/-! ### Unspecified values (R276) -/

/-- A unit array of unspecified values. -/
def freeUnits (k : Nat) (cell : Nat → Cell) : Units := Vector.ofFn (fun i => Config.freeWord k (cell i))

/-- A line array of unspecified values. -/
def freeLines (k : Nat) (cell : Nat → Cell) : Lines := Vector.ofFn (fun i => Config.freeWord k (cell i))

/-! ### The end of a command -/

/-- A command that ends without an error: `BUSY <- 0`, `DONE <- 1` (R240). -/
def State.complete (s : State) : State := { s with status := s.status.complete }

/-- `raise E(info)`, the block's one way of reporting an error (R271, R272): the status flags, `ERR_POS` and `ERR_CMD`.
There is no handler inside the block, no vector and no saved program counter. `s` holds what the error leaves in every
other cell. -/
def State.raise (s : State) (e : Raise) : State :=
  { s with status := s.status.raise e.err, errPos := Word.ofNat e.pos, errCmd := s.cmdLast }

/-- What an error leaves behind (R276): `unspec` gives unspecified values to the cells the command's rule could write,
keyed by the state's counter; every cell it does not touch keeps its value from before the command. -/
def State.fail (s : State) (unspec : Raise → State → State) (e : Raise) : State :=
  State.raise { unspec e s with freeCtr := s.freeCtr + 1 } e

/-- The error with `BR_POS` at `pos`, which `ERR_POS` takes (R271). -/
def raiseAt (e : ErrCode) (pos : Nat) : Raise := ⟨e, pos, pos⟩

/-- The error at the cursor's present position (R271). -/
def State.raiseHere (s : State) (e : ErrCode) : Raise := raiseAt e s.brPos.toNat

/-- What an error `e` of a command that moves the cursor leaves in `BR_POS`; `s` is the state before the command. A
read, decode or alignment that raises does not move it: it stands where that one found it, after the command's earlier
reads (R112, R133; conflict C7). After every other error it is unspecified (R276; log 4). -/
def State.cursorAfter (s : State) (e : Raise) : Word :=
  if e.err.ofReader then Word.ofNat e.cursor else Config.freeWord s.freeCtr .brPos

/-- A command other than `NOP` and `INIT`: `NOT_INIT` before the tables are built, then the command's rule (R240). The
rule answers the state it leaves or the error it raises; an error ends the command as R272 and R276 say. -/
def runCommand (unspec : Raise → State → State) (rule : State → Except Raise State) (s : State) :
    Host.Outcome State Fault Refusal :=
  .next (if s.tablesBuilt then
      match rule s with
      | .ok t => t.complete
      | .error e => s.fail unspec e
    else s.fail unspec (s.raiseHere .notInit))

/-- An illegal command word: "no state other than the error registers changes" (R83). -/
def State.raiseIllegal (s : State) : State := s.raise (s.raiseHere .illegalCmd)

end Sys2Proof.Machine
end

