-- ==== Sys2Proof/Machine/Operands.lean ====
section
/-! DEFINITION. The operand forms: the fields of the bitstream, read most significant bit first (R63, R110 to R114), the
table lookups a rule makes with a checked index, and the one register operand `ARG` (R26, R81). A position `pos` stands for
`BR_POS` inside a rule; an error records it (R271). -/

namespace Sys2Proof.Machine

/-! ### The bit reader (R110 to R114) -/

/-- `LIMIT_BITS = 8 × min(IN_LEN + MARGIN_BYTES, IN_BUF_BYTES)` (R110). -/
def State.limitBits (s : State) : Nat := 8 * min (s.inLen.toNat + s.rom.marginBytes) s.rom.inBufBytes

/-- The bit the input holds at position `p`: bit `7 − (p mod 8)` of byte `p div 8` (R63). -/
def State.streamBit (s : State) (p : Nat) : Nat := if (s.inByte (p / 8)).getLsbD (7 - p % 8) then 1 else 0

/-- `BitAt(p)`, the cursor at `pos`: a bit at or beyond the limit raises `OVERRUN`, recording that bit's position (R110). -/
def State.bitAt (s : State) (pos p : Nat) : Except Raise Nat :=
  if s.limitBits ≤ p then .error ⟨.overrun, p, pos⟩ else .ok (s.streamBit p)

/-- The loop of `Peek`, the cursor at `pos`: `for j in 0..n−1: v = 2·v + BitAt(BR_POS + j)` (R111). -/
def State.peekBits (s : State) (pos : Nat) : Nat → Nat → Nat → Except Raise Nat
  | 0, _, v => .ok v
  | n + 1, p, v => do
    let b ← s.bitAt pos p
    s.peekBits pos n (p + 1) (2 * v + b)

/-- `Peek(n)` at position `pos` (R111). -/
def State.peek (s : State) (pos n : Nat) : Except Raise Nat :=
  if 32 < n then .error (raiseAt .badWidth pos) else s.peekBits pos n pos 0

/-- `Read(n)` (R112): the value and the advanced position. -/
def State.read (s : State) (pos n : Nat) : Except Raise (Nat × Nat) := do
  let v ← s.peek pos n
  return (v, pos + n)

/-- `sext_N(v)`; `sext_0(v) = 0` (R9). -/
def sext (n v : Nat) : Int :=
  match n with
  | 0 => 0
  | n + 1 => if v.testBit n then (v : Int) - 2 ^ (n + 1) else v

/-- `ReadSigned(n)` (R113). -/
def State.readSigned (s : State) (pos n : Nat) : Except Raise (Int × Nat) := do
  let r ← s.read pos n
  return (sext n r.1, r.2)

/-- `{v:w} × k` as unsigned values (R87). -/
def State.readMany (s : State) (w : Nat) : Nat → Nat → Except Raise (List Nat × Nat)
  | 0, pos => .ok ([], pos)
  | k + 1, pos => do
    let r ← s.read pos w
    let rest ← s.readMany w k r.2
    return (r.1 :: rest.1, rest.2)

/-- `{v:w, two's complement} × k` (R89). -/
def State.readManySigned (s : State) (w : Nat) : Nat → Nat → Except Raise (List Int × Nat)
  | 0, pos => .ok ([], pos)
  | k + 1, pos => do
    let r ← s.readSigned pos w
    let rest ← s.readManySigned w k r.2
    return (r.1 :: rest.1, rest.2)

/-- `m × ceil(pos / m)` (R114). -/
def alignUp (m pos : Nat) : Nat := m * ((pos + m - 1) / m)

/-- `Align(m)`: multiple 0 raises `BAD_WIDTH`; no bit is read (R114). -/
def alignPos (m pos : Nat) : Except Raise Nat :=
  if m = 0 then .error (raiseAt .badWidth pos) else .ok (alignUp m pos)

/-! ### Operands from registers and tables -/

/-- `ARG`, read as zext_32 (R81). -/
def State.argNat (s : State) : Nat := s.arg.toNat

/-- `GEOM.NQU` (R32). -/
def State.nqu (s : State) : Nat := s.geom.nqu.toNat

/-- `if NQU > 34: raise INDEX_RANGE(NQU)`, the first check of every per-unit rule (R154 to R212). -/
def State.checkNqu (s : State) : Except Raise Unit :=
  if Config.maxQu < s.nqu then .error (s.raiseHere .indexRange) else .ok ()

end Sys2Proof.Machine

namespace Sys2Proof

/-- `ISP[i]` (R190). -/
def Config.isp (c : Config) (i : Nat) : Nat := (c.quRom.getD i ⟨0, 0⟩).isp

/-- `NSPS[i]` (R190). -/
def Config.nsps (c : Config) (i : Nat) : Nat := (c.quRom.getD i ⟨0, 0⟩).nsps

/-- How many lines the units cover together, from line 0 (R190). -/
def Config.coveredLines (c : Config) : Nat := c.isp 33 + c.nsps 33

/-- `WEIGHT_ROM[r][i]` (R171). -/
def Config.weight (c : Config) (r i : Nat) : Nat := (c.weightRom.getD r []).getD i 0

/-- `CURVE_SPANS` (R152). -/
def Config.curveSpans (c : Config) : Nat := c.curveRom.length

/-- `CURVE_ROM[r][k]` (R152). -/
def Config.curve (c : Config) (r k : Nat) : Nat := (c.curveRom.getD r []).getD k 0

/-- `HUFF_ROM[t]` (R91). -/
def Config.huff (c : Config) (t : Nat) : HuffTable := c.huffRom.getD t (HuffTable.blank t)

/-- `BITS[t][i]` (R91). -/
def HuffTable.len (t : HuffTable) (i : Nat) : Nat := t.bits.getD i 0

/-- `CODES[t][i]` (R91). -/
def HuffTable.code (t : HuffTable) (i : Nat) : Nat := t.codes.getD i 0

/-- `STEP_ROM[p]` (R210). -/
def Config.step (c : Config) (p : Nat) : Word := c.stepRom.getD p 0

/-- `FINE_STEP_ROM[p]` (R210). -/
def Config.fineStep (c : Config) (p : Nat) : Word := c.fineStepRom.getD p 0

/-- `JOINT2_ROM[k]`; `none` is `INVALID` (R192). -/
def Config.joint2 (c : Config) (k : Nat) : Option Nat := c.joint2Rom.getD k none

/-- `JOINT4_ROM[k]`; `none` is `INVALID` (R193). -/
def Config.joint4 (c : Config) (k : Nat) : Option Nat := c.joint4Rom.getD k none

/-- `FBITS_OF_SRID[srid]`; `none` is invalid (R244). -/
def Config.fbits (c : Config) (srid : Nat) : Option Nat := c.fbitsOfSrid.getD srid none

/-- `NCH_OF_CCID`, `BLOCKS_OF_CCID` and `CHB_OF_CCID` of a code; `none` is invalid (R244, R245). -/
def Config.ccid (c : Config) (ccid : Nat) : Option CcidEntry := c.ccidRom.getD ccid none

/-- `TSIN[k][i]` (R220). -/
def Config.tsinAt (c : Config) (k i : Nat) : Word := (c.tsin.getD k []).getD i 0

/-- `TCOS[k][i]` (R220). -/
def Config.tcosAt (c : Config) (k i : Nat) : Word := (c.tcos.getD k []).getD i 0

/-- `IW[B][i]` (R222). -/
def Config.window (c : Config) (b i : Nat) : Word := (if b = 7 then c.window7 else c.window8).getD i 0

/-- `IMDCT_SCALE[B]` (R225). -/
def Config.imdctScale (c : Config) (b : Nat) : Word := if b = 7 then c.imdctScale7 else c.imdctScale8

end Sys2Proof
end

