-- ==== Sys2Proof/Machine/BitReader.lean ====
section
/-! DEFINITION. The bit reader commands `BR_PEEK`, `BR_READ`, `BR_READ_SIGNED`, `BR_READ_OB`, `BR_ALIGN` (R115 to R119). -/

namespace Sys2Proof.Machine

/-- An error of `BR_PEEK` leaves `RESULT` unspecified (R276); it does not write `BR_POS`. -/
def unspecPeek (_ : Raise) (s : State) : State := { s with result := Config.freeWord s.freeCtr .result }

/-- An error of a command that reads into `RESULT` leaves it unspecified, and `BR_POS` as `cursorAfter` says: unchanged by a
bit-reader error, unspecified by `NOT_INIT`, for which no rule promises more (R276, R112, R133). -/
def unspecResult (e : Raise) (s : State) : State :=
  { s with result := Config.freeWord s.freeCtr .result, brPos := s.cursorAfter e }

/-- `BR_ALIGN` writes only `BR_POS`: unchanged by `BAD_WIDTH`, unspecified by `NOT_INIT` (R276, R119). -/
def unspecAlign (e : Raise) (s : State) : State := { s with brPos := s.cursorAfter e }

/-- `RESULT <- Peek(n)` (R115). -/
def brPeekRule (n : Nat) (s : State) : Except Raise State := do
  let v ← s.peek s.brPos.toNat n
  return { s with result := Word.ofNat v }

/-- `RESULT <- Read(n)` (R116). -/
def brReadRule (n : Nat) (s : State) : Except Raise State := do
  let r ← s.read s.brPos.toNat n
  return { s with result := Word.ofNat r.1, brPos := Word.ofNat r.2 }

/-- `RESULT <- sext_n(Read(n))`, in two's complement (R117). -/
def brReadSignedRule (n : Nat) (s : State) : Except Raise State := do
  let r ← s.readSigned s.brPos.toNat n
  return { s with result := Word.ofInt r.1, brPos := Word.ofNat r.2 }

/-- `if m > 2^31: raise BAD_WIDTH(m); Align(m)` with m = `ARG` (R119). A multiple that does not fit the 32-bit `BR_POS`
(only from a cursor the host put near 2^32) is stored as an unspecified value: R114 says this cannot happen, R20 that
`BR_POS` does not wrap. DESIGN CHOICE, `safe` (log 12). -/
def brAlignRule (s : State) : Except Raise State :=
  if 2 ^ 31 < s.argNat then .error (s.raiseHere .badWidth)
  else do
    let p ← alignPos s.argNat s.brPos.toNat
    return if p < 2 ^ 32 then s.setBrPos p
      else { s with brPos := Config.freeWord s.freeCtr .brPos, freeCtr := s.freeCtr + 1 }

/-- `BR_PEEK` (R115). -/
def execBrPeek (n : Nat) (s : State) : Host.Outcome State Fault Refusal := runCommand unspecPeek (brPeekRule n) s

/-- `BR_READ` (R116). -/
def execBrRead (n : Nat) (s : State) : Host.Outcome State Fault Refusal := runCommand unspecResult (brReadRule n) s

/-- `BR_READ_SIGNED` (R117). -/
def execBrReadSigned (n : Nat) (s : State) : Host.Outcome State Fault Refusal :=
  runCommand unspecResult (brReadSignedRule n) s

/-- `BR_READ_OB` is identical to `BR_READ`; the caller applies the offset (R118). -/
def execBrReadOb (n : Nat) (s : State) : Host.Outcome State Fault Refusal := runCommand unspecResult (brReadRule n) s

/-- `BR_ALIGN` (R119). -/
def execBrAlign (s : State) : Host.Outcome State Fault Refusal := runCommand unspecAlign brAlignRule s

end Sys2Proof.Machine
end

