-- ==== Sys2Proof/Machine/Huffman.lean ====
section
/-! DEFINITION. The Huffman codebooks: lookup-table construction (R131), the decode primitive (R133) and `HUFF_DECODE`
(R134). -/

namespace Sys2Proof.Machine

/-- The slots `[CODES[i] << u, (CODES[i] + 1) << u)` that symbol `i` fills, u = MAXB − BITS[i] (R131). -/
def lutRunOf (t : HuffTable) (i : Nat) : LutRun :=
  ⟨t.code i <<< (t.maxb - t.len i), (t.code i + 1) <<< (t.maxb - t.len i), i⟩

/-- `HLUT[t]` as `INIT` builds it: the symbols in increasing order, each used one filling its slots (R131). A later symbol
stands before an earlier one, as it would overwrite it. A table has up to 2^32 slots, so the runs are kept, not the
slots. -/
def buildLut (t : HuffTable) : List LutRun :=
  (List.range (2 ^ t.vb)).foldl (fun runs i => if t.len i = 0 then runs else lutRunOf t i :: runs) []

/-- Every `HLUT[t]`, t in 0..12. -/
def buildLuts (c : Config) : Vector (List LutRun) 13 := Vector.ofFn (fun t => buildLut (c.huff t))

/-- `HLUT[t][w]`; `none` is `INVALID` (R53). -/
def lutLookup (runs : List LutRun) (w : Nat) : Option Nat :=
  (runs.find? (fun r => decide (r.lo ≤ w) && decide (w < r.hi))).map LutRun.sym

/-- The value a decoded symbol stands for: sign-extended from `VB` bits in a signed table (R133). -/
def symbolValue (t : HuffTable) (i : Nat) : Int := if t.sgn then sext t.vb i else i

/-- `HuffDecode(t)` at position `pos` (R133). The whole `MAXB`-bit window must be readable. -/
def State.huffAt (s : State) (pos t : Nat) : Except Raise (Int × Nat) :=
  if (s.rom.huff t).isEmpty then .error (raiseAt .badTable pos)
  else do
    let w ← s.peek pos (s.rom.huff t).maxb
    match lutLookup (s.hlut.getD t []) w with
    | none => .error (raiseAt .huffInvalid pos)
    | some i => return (symbolValue (s.rom.huff t) i, pos + (s.rom.huff t).len i)

/-- `RESULT <- HuffDecode(T)`, in two's complement (R134). -/
def huffDecodeRule (t : Nat) (s : State) : Except Raise State := do
  let r ← s.huffAt s.brPos.toNat t
  return { s with result := Word.ofInt r.1, brPos := Word.ofNat r.2 }

/-- `HUFF_DECODE` (R134). A table id 13..15 is an illegal command (R83). -/
def execHuffDecode (t : Nat) (s : State) : Host.Outcome State Fault Refusal :=
  if tableFieldOk t then runCommand unspecResult (huffDecodeRule t) s else .next s.raiseIllegal

end Sys2Proof.Machine
end

