-- ==== Sys2Proof/Machine/Control.lean ====
section
/-! DEFINITION. The control commands `NOP` (R241) and `INIT` (R242), which run before the tables are built too. -/

namespace Sys2Proof.Machine

/-- `NOP`: nothing but the end of the command (R241). -/
def execNop (s : State) : Host.Outcome State Fault Refusal := .next s.complete

/-- `INIT`: every `HLUT[t]` built, `TABLES_BUILT` and `INIT_DONE` set, nothing else touched (R242). -/
def initTables (s : State) : State :=
  { s with hlut := buildLuts s.rom, status := { s.status with initDone := true } }

/-- `INIT` (R242). -/
def execInit (s : State) : Host.Outcome State Fault Refusal := .next (initTables s).complete

end Sys2Proof.Machine
end

