-- ==== Sys2Proof/Machine/Float.lean ====
section
/-! DEFINITION. IEEE 754 binary32 arithmetic (R10): every operation rounds the exact real result once, to nearest, ties to
even. A finite value is held exactly as a whole number of units 2^−149, so nothing is lost before that one rounding.
Subnormals are kept and nothing is signalled. -/

namespace Sys2Proof.Machine

/-- The sign bit. -/
def fpSign (w : Word) : Bool := w.getLsbD 31

/-- The biased exponent field. -/
def fpExp (w : Word) : Nat := (w.extractLsb' 23 8).toNat

/-- The trailing significand field. -/
def fpFrac (w : Word) : Nat := (w.extractLsb' 0 23).toNat

/-- Not a number. -/
def fpIsNaN (w : Word) : Bool := fpExp w == 255 && fpFrac w != 0

/-- An infinity. -/
def fpIsInf (w : Word) : Bool := fpExp w == 255 && fpFrac w == 0

/-- A zero of either sign. -/
def fpIsZero (w : Word) : Bool := fpExp w == 0 && fpFrac w == 0

/-- The magnitude of a finite value, in units 2^−149. -/
def fpMag (w : Word) : Nat :=
  if fpExp w = 0 then fpFrac w else (2 ^ 23 + fpFrac w) <<< (fpExp w - 1)

/-- A finite value, in units 2^−149. -/
def fpInt (w : Word) : Int := if fpSign w then -(fpMag w : Int) else fpMag w

/-- Sign bit in place. -/
def fpSignBit (neg : Bool) : Word := if neg then 0x80000000 else 0

/-- Infinity. -/
def fpInf (neg : Bool) : Word := fpSignBit neg ||| 0x7F800000

/-- `m / 2^sh` rounded to nearest, ties to even. -/
def roundShift (m sh : Nat) : Nat :=
  let q := m >>> sh
  let r := m % 2 ^ sh
  if 2 ^ sh < 2 * r ∨ (2 * r = 2 ^ sh ∧ q % 2 = 1) then q + 1 else q

/-- `f32` of the real number ±m·2^(−149−k): the nearest binary32 value, ties to even; too large a value gives an infinity
(R10). The significand keeps 24 bits, fewer below the normal range. -/
def fpRound (neg : Bool) (m k : Nat) : Word :=
  let sh := max k (Nat.log2 m - 23)
  let bits := (sh - k) <<< 23 + roundShift m sh
  if 255 <<< 23 ≤ bits then fpInf neg else fpSignBit neg ||| BitVec.ofNat 32 bits

/-- `f32` of a whole number of units 2^−149; an exact zero takes the sign `zeroNeg`. -/
def fpRoundInt (zeroNeg : Bool) (x : Int) : Word :=
  fpRound (if x = 0 then zeroNeg else decide (x < 0)) x.natAbs 0

/-- The NaN an operation delivers: some NaN, sign and payload unspecified (R10 names IEEE 754, which leaves them open). -/
def fpNaN (op : FpOp) (a b : Word) : Word :=
  let w := (Config.nanBits op a b &&& 0x807FFFFF) ||| 0x7F800000
  if fpFrac w = 0 then w ||| 1 else w

/-- A sum under the IEEE rules, for `fadd` and `fsub`: `op` and `b'` say which operation delivers a NaN. A zero sum of
operands of unlike sign is +0. -/
def fpSum (op : FpOp) (a b b' : Word) : Word :=
  if fpIsNaN a || fpIsNaN b then fpNaN op a b'
  else if fpIsInf a then
    if fpIsInf b && fpSign a != fpSign b then fpNaN op a b' else a
  else if fpIsInf b then b
  else fpRoundInt (fpSign a && fpSign b) (fpInt a + fpInt b)

/-- `fneg(a) = −a`, exact: the sign bit flips (R10). -/
def fneg (a : Word) : Word := a ^^^ 0x80000000

/-- `fadd(a,b) = f32(a+b)` (R10). -/
def fadd (a b : Word) : Word := fpSum .add a b b

/-- `fsub(a,b) = f32(a−b)` (R10). -/
def fsub (a b : Word) : Word := fpSum .sub a (fneg b) b

/-- `fmul(a,b) = f32(a·b)` (R10). -/
def fmul (a b : Word) : Word :=
  let neg := fpSign a != fpSign b
  if fpIsNaN a || fpIsNaN b then fpNaN .mul a b
  else if fpIsInf a || fpIsInf b then
    if fpIsZero a || fpIsZero b then fpNaN .mul a b else fpInf neg
  else fpRound neg (fpMag a * fpMag b) 149

/-- `i2f(n) = f32(n)` (R10). -/
def i2f (n : Int) : Word := fpRoundInt false (n * 2 ^ 149)

/-- `round_half_away_from_zero(v)` on the real value of a finite `v` (R250). -/
def roundHalfAway (v : Word) : Int :=
  let r : Int := (fpMag v + 2 ^ 148) >>> 149
  if fpSign v then -r else r

/-- `I16(v)`: NaN gives 0, values out of range and infinities saturate (R250). -/
def fpToI16 (v : Word) : Int :=
  if fpIsNaN v then 0 else max (-32768) (min 32767 (roundHalfAway v))

end Sys2Proof.Machine
end

