-- ==== Sys2Proof/Machine/Tables.lean ====
section
/-! DEFINITION. The tables the spec itself fixes (`WL_ROM`, `SCALE_ROM`, `SHUF_ROM`) and the default contents of
`TRIG_ROM` and `WINDOW_ROM` (R220 to R222). The trigonometric functions are evaluated in fixed point with 192 fractional
bits and then rounded once to binary32. -/

namespace Sys2Proof.Machine

/-- `WL_ROM` (R6, R194): {0, 2, 3, …, 16}. -/
def wlRom (p : Nat) : Nat := if p = 0 then 0 else p + 1

/-- `SCALE_ROM[s] = 2^(s−24)`, exactly, for s in 1..31 (R212). -/
def scaleRom (s : Nat) : Word := BitVec.ofNat 32 ((s + 103) <<< 23)

/-- Reverse the `k` low bits of `x`: bit j becomes bit k−1−j (R221). -/
def bitRev : Nat → Nat → Nat
  | 0, _ => 0
  | k + 1, x => (x % 2) * 2 ^ k + bitRev k (x / 2)

/-- `SHUF[k][i] = bitrev_k(i XOR (i >> 1))` (R221). -/
def shufRom (k i : Nat) : Nat := bitRev k (i ^^^ (i >>> 1))

/-! ### Default `TRIG_ROM` and `WINDOW_ROM` -/

/-- Fractional bits of the fixed-point numbers below. -/
def fixBits : Nat := 192

/-- π in fixed point, rounded down. -/
def fixPi : Int := 0x3243f6a8885a308d313198a2e03707344a4093822299f31d0

/-- The product of two fixed-point numbers, rounded down. -/
def fixMul (a b : Int) : Int := (a * b) >>> fixBits

/-- The Taylor series of sine and cosine: `t` is the term with denominator n!, `x2` the square of the argument. -/
def fixSeries (x2 : Int) : Nat → Nat → Int → Int → Int
  | 0, _, _, acc => acc
  | fuel + 1, n, t, acc => fixSeries x2 fuel (n + 2) (-(fixMul t x2) / ((n + 1) * (n + 2) : Nat)) (acc + t)

/-- sin in fixed point, for arguments between −π and π. -/
def fixSin (x : Int) : Int := fixSeries (fixMul x x) 48 1 x 0

/-- cos in fixed point, for arguments between −π and π. -/
def fixCos (x : Int) : Int := fixSeries (fixMul x x) 48 0 (2 ^ fixBits) 0

/-- `f32` of a fixed-point number. -/
def fixToF32 (x : Int) : Word := fpRound (decide (x < 0)) x.natAbs (fixBits - 149)

/-- π·(4i + 1) / (4·2^k) in fixed point (R220). -/
def trigAngle (k i : Nat) : Int := fixPi * (4 * i + 1 : Nat) / (4 * 2 ^ k : Nat)

/-- The default `TSIN[k][i]` (R220). -/
def tsinDefault (k i : Nat) : Word := fixToF32 (fixSin (trigAngle k i))

/-- The default `TCOS[k][i]` (R220). -/
def tcosDefault (k i : Nat) : Word := fixToF32 (fixCos (trigAngle k i))

/-- `M[i]` of size N, in fixed point: (sin(((i + 0.5)/N − 0.5)·π) + 1) / 2 (R222). -/
def mdctWindow (n i : Nat) : Int :=
  (fixSin (fixPi * ((2 * i + 1 : Nat) - (n : Int)) / (2 * n : Nat)) + 2 ^ fixBits) / 2

/-- The default `IW[B][i]`, with N = 2^B: f32(M[i] / (M[N−1−i]² + M[i]²)) (R222). -/
def windowDefault (b i : Nat) : Word :=
  let m := mdctWindow (2 ^ b) i
  let m' := mdctWindow (2 ^ b) (2 ^ b - 1 - i)
  fixToF32 ((m <<< fixBits) / (fixMul m' m' + fixMul m m))

/-- The default rows of `TRIG_ROM`, k in 0..8. -/
def tsinDefaultRows : List (List Word) := (List.range 9).map (fun k => (List.range (2 ^ k)).map (tsinDefault k))

/-- The default rows of `TRIG_ROM`, k in 0..8. -/
def tcosDefaultRows : List (List Word) := (List.range 9).map (fun k => (List.range (2 ^ k)).map (tcosDefault k))

/-- The default `WINDOW_ROM` row of size class B. -/
def windowDefaultRow (b : Nat) : List Word := (List.range (2 ^ b)).map (windowDefault b)

/-- The configuration keeps the default `TRIG_ROM` and `WINDOW_ROM` (R220, R222). -/
def usesDefaultTables (c : Config) : Bool :=
  c.tsin == tsinDefaultRows && c.tcos == tcosDefaultRows && c.window7 == windowDefaultRow 7 &&
  c.window8 == windowDefaultRow 8

end Sys2Proof.Machine
end

