-- ==== Sys2Proof/Machine/Spectrum.lean ====
section
/-! DEFINITION. The quantized-spectrum extractor: `SPEC_DECODE` (R191 to R194) and `SPEC_FINE_DECODE` (R195). -/

namespace Sys2Proof.Machine

/-- Nibble `j` of an entry that holds `m` nibbles; nibble 0 is the most significant (R92). -/
def jointNibble (m e j : Nat) : Nat := (e >>> (2 * (m - 1 - j))) % 4

/-- The `m` values of a joint entry, each nibble less 1 (R192, R193). -/
def jointValues (m e : Nat) : List Int := (List.range m).map (fun j => (jointNibble m e j : Int) - 1)

/-- `Joint2`: a 3-bit code for the two lines of a unit (R192). -/
def State.joint2At (s : State) (pos : Nat) : Except Raise (List Int × Nat) := do
  let k ← s.read pos Config.joint2Bits
  match s.rom.joint2 k.1 with
  | none => .error (raiseAt .jointInvalid k.2)
  | some e => return (jointValues 2 e, k.2)

/-- `Joint4`: a 7-bit code for one group of four lines (R193). -/
def State.joint4At (s : State) (pos : Nat) : Except Raise (List Int × Nat) := do
  let k ← s.read pos Config.joint4Bits
  match s.rom.joint4 k.1 with
  | none => .error (raiseAt .jointInvalid k.2)
  | some e => return (jointValues 4 e, k.2)

/-- `{code4:7} × g`, group after group (R89, R193). -/
def State.joint4Groups (s : State) : Nat → Nat → Except Raise (List Int × Nat)
  | 0, pos => .ok ([], pos)
  | g + 1, pos => do
    let first ← s.joint4At pos
    let rest ← s.joint4Groups g first.2
    return (first.1 ++ rest.1, rest.2)

/-- The lines of one unit of `n` lines at precision `p`, already checked to be in 0..15 (R191, R194). -/
def State.unitLines (s : State) (p n pos : Nat) : Except Raise (List Int × Nat) :=
  if p = 1 then if n = 2 then s.joint2At pos else s.joint4Groups (n / 4) pos
  else s.readManySigned (wlRom p) n pos

/-- An int32 cell as a table index in 0..15, else `INDEX_RANGE` (R191, R210). -/
def precIndex (p : Int) (pos : Nat) : Except Raise Nat :=
  if p < 0 ∨ 15 < p then .error (raiseAt .indexRange pos) else .ok p.toNat

/-- The unit loop of `SPEC_DECODE`, over the units listed (R191). -/
def State.specUnits (s : State) (prec : Units) : List Nat → Lines → Nat → Except Raise (Lines × Nat)
  | [], q, pos => .ok (q, pos)
  | i :: is, q, pos => do
    let p ← precIndex (Units.int prec i) pos
    let r ← s.unitLines p (s.rom.nsps i) pos
    s.specUnits prec is (Lines.putList q (s.rom.isp i) (r.1.map Word.ofInt)) r.2

/-- The rule of `SPEC_DECODE` (R191). -/
def specDecodeRule (c : Chan) (s : State) : Except Raise State := do
  s.checkNqu
  let r ← s.specUnits (s.chan c).prec (List.range s.nqu) Lines.zero s.brPos.toNat
  return (s.setChan c { s.chan c with qspec := r.1 }).setBrPos r.2

/-- The unit loop of `SPEC_FINE_DECODE`: only units with a positive fine precision have bits (R195). -/
def State.fineUnits (s : State) (precf : Units) : List Nat → Lines → Nat → Except Raise (Lines × Nat)
  | [], q, pos => .ok (q, pos)
  | i :: is, q, pos =>
    let f := Units.int precf i
    if 0 < f then
      if 15 < f then .error (raiseAt .indexRange pos)
      else do
        let r ← s.readManySigned (wlRom f.toNat) (s.rom.nsps i) pos
        s.fineUnits precf is (Lines.putList q (s.rom.isp i) (r.1.map Word.ofInt)) r.2
    else s.fineUnits precf is q pos

/-- The rule of `SPEC_FINE_DECODE` (R195). -/
def specFineDecodeRule (c : Chan) (s : State) : Except Raise State := do
  s.checkNqu
  let r ← s.fineUnits (s.chan c).precf (List.range s.nqu) Lines.zero s.brPos.toNat
  return (s.setChan c { s.chan c with qspecf := r.1 }).setBrPos r.2

/-- An error leaves `QSPEC[c]` unspecified (R276), and `BR_POS` as `cursorAfter` says. -/
def unspecSpec (c : Chan) (e : Raise) (s : State) : State :=
  { s.setChan c { s.chan c with qspec := freeLines s.freeCtr (.qspec c) } with
    brPos := s.cursorAfter e }

/-- An error leaves `QSPECF[c]` unspecified (R276), and `BR_POS` as `cursorAfter` says. -/
def unspecFine (c : Chan) (e : Raise) (s : State) : State :=
  { s.setChan c { s.chan c with qspecf := freeLines s.freeCtr (.qspecf c) } with
    brPos := s.cursorAfter e }

/-- `SPEC_DECODE` (R191). -/
def execSpecDecode (c : Chan) (s : State) : Host.Outcome State Fault Refusal :=
  runCommand (unspecSpec c) (specDecodeRule c) s

/-- `SPEC_FINE_DECODE` (R195). -/
def execSpecFineDecode (c : Chan) (s : State) : Host.Outcome State Fault Refusal :=
  runCommand (unspecFine c) (specFineDecodeRule c) s

end Sys2Proof.Machine
end

