-- ==== Sys2Proof/Machine/Dequant.lean ====
section
/-! DEFINITION. The dequantizer `DEQUANT` (R210) and the scaler `SCALE` (R212). -/

namespace Sys2Proof.Machine

/-- One dequantized line: coarse and fine product, then their sum, each rounded once (R210). -/
def dequantLine (c : Config) (p : Nat) (q qf : Int) : Word :=
  fadd (fmul (i2f q) (c.step p)) (fmul (i2f qf) (c.fineStep p))

/-- The unit loop of `DEQUANT`, over the units listed; `pos` is `BR_POS`, which does not move (R210). -/
def dequantUnits (c : Config) (x : Channel) (pos : Nat) : List Nat → Lines → Except Raise Lines
  | [], v => .ok v
  | i :: is, v => do
    let p ← precIndex (Units.int x.prec i) pos
    dequantUnits c x pos is
      (Lines.fill v (c.isp i) (fun j =>
        dequantLine c p (Lines.int x.qspec (c.isp i + j)) (Lines.int x.qspecf (c.isp i + j))) (c.nsps i))

/-- The rule of `DEQUANT` (R210). -/
def dequantRule (c : Chan) (s : State) : Except Raise State := do
  s.checkNqu
  let v ← dequantUnits s.rom (s.chan c) s.brPos.toNat (List.range s.nqu) Lines.zero
  return s.setChan c { s.chan c with spec := v }

/-- The unit loop of `SCALE`: a factor of 0 or less leaves the unit's lines bit-exact (R212). -/
def scaleUnits (c : Config) (sf : Units) (pos : Nat) : List Nat → Lines → Except Raise Lines
  | [], v => .ok v
  | i :: is, v =>
    let f := Units.int sf i
    if 0 < f then
      if 31 < f then .error (raiseAt .indexRange pos)
      else scaleUnits c sf pos is
        (Lines.fill v (c.isp i) (fun j => fmul (Lines.at v (c.isp i + j)) (scaleRom f.toNat)) (c.nsps i))
    else scaleUnits c sf pos is v

/-- The rule of `SCALE` (R212). -/
def scaleRule (c : Chan) (s : State) : Except Raise State := do
  s.checkNqu
  let v ← scaleUnits s.rom (s.chan c).sf s.brPos.toNat (List.range s.nqu) (s.chan c).spec
  return s.setChan c { s.chan c with spec := v }

/-- An error in `DEQUANT` leaves `SPEC[c]` unspecified (R276). -/
def unspecDequant (c : Chan) (_ : Raise) (s : State) : State :=
  s.setChan c { s.chan c with spec := freeLines s.freeCtr (.spec c) }

/-- An error in `SCALE` leaves the lines that units cover unspecified; no unit covers the others, so the rule cannot write
them (R276, R212). -/
def unspecScale (c : Chan) (_ : Raise) (s : State) : State :=
  s.setChan c { s.chan c with
    spec := Vector.ofFn (fun n =>
      if n.val < s.rom.coveredLines then Config.freeWord s.freeCtr (.spec c n) else Lines.at (s.chan c).spec n) }

/-- `DEQUANT` (R210). -/
def execDequant (c : Chan) (s : State) : Host.Outcome State Fault Refusal :=
  runCommand (unspecDequant c) (dequantRule c) s

/-- `SCALE` (R212). -/
def execScale (c : Chan) (s : State) : Host.Outcome State Fault Refusal :=
  runCommand (unspecScale c) (scaleRule c) s

end Sys2Proof.Machine
end

