-- ==== Sys2Proof/Machine/Fields.lean ====
section
/-! DEFINITION. Field extraction: `PARSE_HEADER` (R244 to R246), `PARSE_BAND` (R247) and `PARSE_GRADIENT` (R248, R249). -/

namespace Sys2Proof.Machine

/-! ### `PARSE_HEADER` -/

/-- The header registers and both size classes take the values read (R244, R245). -/
def setHeader (srid fbits ccid flen fstat : Nat) (e : CcidEntry) (s : State) : State :=
  { s with
    hdr := ⟨BitVec.ofNat 8 srid, BitVec.ofNat 8 ccid, BitVec.ofNat 8 fstat⟩
    flen := BitVec.ofNat 16 (flen + s.rom.flenOffset)
    geom := { s.geom with nch := BitVec.ofNat 2 e.nch, fbits := BitVec.ofNat 4 fbits }
    ch0 := { s.ch0 with mbits := BitVec.ofNat 4 fbits }
    ch1 := { s.ch1 with mbits := BitVec.ofNat 4 fbits } }

/-- The rule of `PARSE_HEADER` (R244). A `SYNC` error records the position of the sync field, to which `BR_POS` is
restored (R246, R271). -/
def parseHeaderRule (s : State) : Except Raise State := do
  let sync ← s.read s.brPos.toNat Config.syncBits
  if sync.1 ≠ s.rom.syncWord then .error (s.raiseHere .sync) else
  let srid ← s.read sync.2 s.rom.sridBits
  let ccid ← s.read srid.2 s.rom.ccidBits
  let flen ← s.read ccid.2 s.rom.flenBits
  let fstat ← s.read flen.2 s.rom.fstatBits
  match s.rom.fbits srid.1 with
  | none => .error (raiseAt .indexRange fstat.2)
  | some fbits =>
    match s.rom.ccid ccid.1 with
    | none => .error (raiseAt .indexRange fstat.2)
    | some e => return (setHeader srid.1 fbits ccid.1 flen.1 fstat.1 e s).setBrPos fstat.2

/-- What a header error other than `SYNC` leaves: `HDR`, `FLEN`, `GEOM.NCH`, `GEOM.FBITS` and both `MBITS` unspecified
(R276), `BR_POS` as `cursorAfter` says; `GEOM.NBANDS` and `GEOM.NQU` are not touched (R244). -/
def freeHeader (e : Raise) (s : State) : State :=
  let g := Geom.ofWord (Config.freeWord s.freeCtr .geom)
  { s with
    hdr := Hdr.ofWord (Config.freeWord s.freeCtr .hdr)
    flen := (Config.freeWord s.freeCtr .flen).extractLsb' 0 16
    geom := { s.geom with nch := g.nch, fbits := g.fbits }
    ch0 := { s.ch0 with mbits := (Config.freeWord s.freeCtr (.mbits .c0)).extractLsb' 0 4 }
    ch1 := { s.ch1 with mbits := (Config.freeWord s.freeCtr (.mbits .c1)).extractLsb' 0 4 }
    brPos := s.cursorAfter e }

/-- After a `SYNC` error nothing but the error registers has changed (R246). -/
def unspecHeader (e : Raise) (s : State) : State :=
  if e.err = .sync then s else freeHeader e s

/-- `PARSE_HEADER` (R244). -/
def execParseHeader (s : State) : Host.Outcome State Fault Refusal := runCommand unspecHeader parseHeaderRule s

/-! ### `PARSE_BAND` -/

/-- The rule of `PARSE_BAND`: the band flag is read and discarded (R247). -/
def parseBandRule (s : State) : Except Raise State := do
  let coded ← s.read s.brPos.toNat s.rom.bandBits
  let flag ← s.read coded.2 s.rom.bandFlagBits
  match s.rom.nquRom[coded.1 + s.rom.bandOffset]? with
  | none => .error (raiseAt .indexRange flag.2)
  | some nqu =>
    return { s with
      geom := { s.geom with nbands := BitVec.ofNat 8 (coded.1 + s.rom.bandOffset), nqu := BitVec.ofNat 8 nqu }
      brPos := Word.ofNat flag.2 }

/-- An error leaves `GEOM.NBANDS` and `GEOM.NQU` unspecified (R276), and `BR_POS` as `cursorAfter` says. -/
def unspecBand (e : Raise) (s : State) : State :=
  let g := Geom.ofWord (Config.freeWord s.freeCtr .geom)
  { s with
    geom := { s.geom with nbands := g.nbands, nqu := g.nqu }
    brPos := s.cursorAfter e }

/-- `PARSE_BAND` (R247). -/
def execParseBand (s : State) : Host.Outcome State Fault Refusal := runCommand unspecBand parseBandRule s

/-! ### `PARSE_GRADIENT` -/

/-- The mode-dependent gradient fields and the position after them. -/
structure GradientFields where
  gsu : Nat
  geu : Nat
  gsv : Nat
  gev : Nat
  pos : Nat
deriving DecidableEq, Repr

/-- Mode 0: all four values are read (R248). -/
def State.gradientDirect (s : State) (pos : Nat) : Except Raise GradientFields := do
  let gsu ← s.read pos s.rom.gsu0Bits
  let geu ← s.read gsu.2 s.rom.geu0Bits
  let gsv ← s.read geu.2 s.rom.gsvBits
  let gev ← s.read gsv.2 s.rom.gevBits
  return ⟨gsu.1, geu.1 + s.rom.geu0Offset, gsv.1, gev.1, gev.2⟩

/-- Mode ≠ 0: `endUnit` and `endValue` are fixed constants (R248, R249). -/
def State.gradientFixedEnd (s : State) (pos : Nat) : Except Raise GradientFields := do
  let gsu ← s.read pos s.rom.gsu1Bits
  let gsv ← s.read gsu.2 s.rom.gsvBits
  return ⟨gsu.1, s.rom.gradM1EndUnit, gsv.1, Config.gradM1EndValue, gsv.2⟩

/-- The fields that the mode selects; modes 2 and 3 take the path of mode 1 (R248). -/
def State.gradientFields (s : State) (gmode pos : Nat) : Except Raise GradientFields :=
  if gmode = 0 then s.gradientDirect pos else s.gradientFixedEnd pos

/-- The rule of `PARSE_GRADIENT` (R248). -/
def parseGradientRule (s : State) : Except Raise State := do
  let gmode ← s.read s.brPos.toNat Config.gmodeBits
  let f ← s.gradientFields gmode.1 gmode.2
  let gbnd ← s.read f.pos s.rom.gbndBits
  return { s with
    gparam0 := ⟨BitVec.ofNat 8 gmode.1, BitVec.ofNat 8 f.gsu, BitVec.ofNat 8 f.geu, BitVec.ofNat 8 gbnd.1⟩
    gparam1 := ⟨BitVec.ofNat 8 f.gsv, BitVec.ofNat 8 f.gev⟩
    brPos := Word.ofNat gbnd.2 }

/-- An error leaves `GPARAM0` and `GPARAM1` unspecified (R276), and `BR_POS` as `cursorAfter` says. -/
def unspecGradientFields (e : Raise) (s : State) : State :=
  { s with
    gparam0 := GParam0.ofWord (Config.freeWord s.freeCtr .gparam0)
    gparam1 := GParam1.ofWord (Config.freeWord s.freeCtr .gparam1)
    brPos := s.cursorAfter e }

/-- `PARSE_GRADIENT` (R248). -/
def execParseGradient (s : State) : Host.Outcome State Fault Refusal :=
  runCommand unspecGradientFields parseGradientRule s

end Sys2Proof.Machine
end

