-- ==== Sys2Proof/Machine/Imdct.lean ====
section
/-! DEFINITION. The IMDCT engine: `Dct4` (R223 to R225), overlap-add (R227) and `IMDCT` (R226). Throughout, `b` is the size
class `B`, N = 2^b and H = N/2. -/

namespace Sys2Proof.Machine

/-! ### DCT-IV -/

/-- One step of the pre-rotation (R223). -/
def preRotateStep (c : Config) (b : Nat) (x : Lines) (t : Lines) (i : Nat) : Lines :=
  let a := Lines.at x (2 * i)
  let d := Lines.at x (2 ^ b - 1 - 2 * i)
  let co := c.tcosAt b i
  let si := c.tsinAt b i
  Lines.put (Lines.put t (2 * i) (fadd (fmul a co) (fmul d si))) (2 * i + 1) (fsub (fmul a si) (fmul d co))

/-- The pre-rotation pass, i in 0..H−1 (R223). -/
def preRotate (c : Config) (b : Nat) (x : Lines) : Lines :=
  (List.range (2 ^ (b - 1))).foldl (preRotateStep c b x) Lines.zero

/-- One butterfly: `a` and `d` are formed before `T[f]` and `T[f+1]` are overwritten (R224). -/
def butterfly (c : Config) (bhb i f g : Nat) (t : Lines) : Lines :=
  let a := fsub (Lines.at t f) (Lines.at t g)
  let d := fsub (Lines.at t (f + 1)) (Lines.at t (g + 1))
  let co := c.tcosAt bhb i
  let si := c.tsinAt bhb i
  let t1 := Lines.put t f (fadd (Lines.at t f) (Lines.at t g))
  let t2 := Lines.put t1 (f + 1) (fadd (Lines.at t1 (f + 1)) (Lines.at t1 (g + 1)))
  let t3 := Lines.put t2 g (fadd (fmul a co) (fmul d si))
  Lines.put t3 (g + 1) (fsub (fmul a si) (fmul d co))

/-- Stage `st`: 2^st blocks of 2·2^(B−1−st) cells each, with the tables of its own half-block size (R224). -/
def butterflyStage (c : Config) (b : Nat) (t : Lines) (st : Nat) : Lines :=
  let bs := 2 ^ (b - 1 - st)
  let bhb := b - 1 - st - 1
  (List.range (2 ^ st)).foldl (fun t blk =>
    (List.range (2 ^ bhb)).foldl (fun t i =>
      butterfly c bhb i (2 * (blk * bs + i)) (2 * (blk * bs + i) + bs) t) t) t

/-- The butterfly passes, st in 0..B−2 (R224). -/
def butterflies (c : Config) (b : Nat) (t : Lines) : Lines :=
  (List.range (b - 1)).foldl (butterflyStage c b) t

/-- Shuffle and scale: `y[k] = T[SHUF[B][k]] · IMDCT_SCALE[B]` (R225). -/
def shuffleScale (c : Config) (b : Nat) (t : Lines) : Lines :=
  Lines.fill Lines.zero 0 (fun k => fmul (Lines.at t (shufRom b k)) (c.imdctScale b)) (2 ^ b)

/-- `Dct4(B, x)`, on the first N lines of `x` (R223 to R225). -/
def dct4 (c : Config) (b : Nat) (x : Lines) : Lines := shuffleScale c b (butterflies c b (preRotate c b x))

/-! ### Overlap-add and the command -/

/-- Iteration `i` of the overlap-add on (`PCM[c]`, `P`): it reads `P[i]` and `P[i + H]` before it writes them (R227). -/
def overlapStep (c : Config) (b : Nat) (u : Lines) (e : Lines × Lines) (i : Nat) : Lines × Lines :=
  let n := 2 ^ b
  let h := 2 ^ (b - 1)
  (Lines.put (Lines.put e.1 i (fadd (fmul (c.window b i) (Lines.at u (i + h))) (Lines.at e.2 i)))
      (i + h) (fsub (fmul (c.window b (i + h)) (fneg (Lines.at u (n - 1 - i)))) (Lines.at e.2 (i + h))),
   Lines.put (Lines.put e.2 i (fmul (c.window b (n - 1 - i)) (fneg (Lines.at u (h - 1 - i)))))
      (i + h) (fmul (c.window b (h - 1 - i)) (Lines.at u i)))

/-- `OverlapAdd(c, P, u)`, i in 0..H−1: the new `PCM[c]` and the new `P` (R227). -/
def overlapAdd (c : Config) (b : Nat) (u pcm p : Lines) : Lines × Lines :=
  (List.range (2 ^ (b - 1))).foldl (overlapStep c b u) (pcm, p)

/-- A size class is 7 or 8 (R226, R252). -/
def sizeOk (b : Nat) : Bool := b == 7 || b == 8

/-- The rule of `IMDCT` on an overlap buffer `P`: `BAD_SIZE` before any write, else the new `PCM[c]` and `P` (R226). -/
def imdctOn (c : Chan) (s : State) (p : Lines) : Except Raise (Lines × Lines) :=
  let b := (s.chan c).mbits.toNat
  if sizeOk b then .ok (overlapAdd s.rom b (dct4 s.rom b (s.chan c).spec) (s.chan c).pcm p)
  else .error (s.raiseHere .badSize)

/-- A host-issued `IMDCT`: `P` is `PREV[c]`, updated at once (R226, R313). -/
def imdctRule (c : Chan) (s : State) : Except Raise State := do
  let r ← imdctOn c s (s.chan c).prev
  return s.setChan c { s.chan c with pcm := r.1, prev := r.2 }

/-- `IMDCT` inside `DECODE_FRAME`: `P` is `WORK_PREV[c]`, and `PREV[c]` is not touched (R254, R256). -/
def imdctWorkRule (c : Chan) (s : State) : Except Raise State := do
  let r ← imdctOn c s (s.chan c).workPrev
  return s.setChan c { s.chan c with pcm := r.1, workPrev := r.2 }

/-- An `IMDCT` that raises leaves `PREV` and `PCM` unchanged, which is all its rule could write (R226). -/
def unspecImdct (_ : Raise) (s : State) : State := s

/-- `IMDCT` (R226). -/
def execImdct (c : Chan) (s : State) : Host.Outcome State Fault Refusal :=
  runCommand unspecImdct (imdctRule c) s

end Sys2Proof.Machine
end

