-- ==== Sys2Proof/Machine/PcmOut.lean ====
section
/-! DEFINITION. PCM output: sample conversion (R250, R251) and `PCM_OUT` (R252). -/

namespace Sys2Proof.Machine

/-- The size of one output sample in bytes (R252). -/
def State.sampleBytes (s : State) : Nat := if s.ctrl.outFmt then 4 else 2

/-- One sample as it stands in `OUT_BUF`, little-endian: `I16` or the binary32 bits unchanged (R65, R250, R251). -/
def sampleData (float : Bool) (v : Word) : List Byte :=
  if float then leBytes 4 v else leBytes 2 (Word.ofInt (fpToI16 v))

/-- The channel samples of position `n`, channel 0 first (R252). -/
def State.framePoint (s : State) (n : Nat) : List Byte :=
  (List.range s.geom.nch.toNat).flatMap (fun ch => sampleData s.ctrl.outFmt (Lines.at (s.chan (.ofNat ch)).pcm n))

/-- How many bytes one frame's PCM takes: NCH·N·sz (R252). -/
def State.pcmBytes (s : State) : Nat := s.geom.nch.toNat * 2 ^ s.geom.fbits.toNat * s.sampleBytes

/-- The bytes of one frame, sample-major and channel-minor: sample n of channel ch at index n·NCH + ch (R252). -/
def State.pcmData (s : State) : List Byte := (List.range (2 ^ s.geom.fbits.toNat)).flatMap s.framePoint

/-- `OUT_PTR` as a byte offset (R36). -/
def State.outPtrByte (s : State) : Nat := s.outPtrWord.toNat

/-- The rule of `PCM_OUT`: every check before any write (R252). -/
def pcmOutRule (s : State) : Except Raise State :=
  let nch := s.geom.nch.toNat
  if ¬(nch = 1 ∨ nch = 2) then .error (s.raiseHere .indexRange)
  else if sizeOk s.geom.fbits.toNat = false then .error (s.raiseHere .badSize)
  else if s.rom.outBufBytes < s.outPtrByte + s.pcmBytes then .error (s.raiseHere .outRange)
  else .ok ({ s with outBuf := s.outBuf.putBytes s.outPtrByte s.pcmData }.setOutPtr
    (Word.ofNat (s.outPtrByte + s.pcmBytes)))

/-- All errors of `PCM_OUT` are detected before any write: everything is unchanged (R252, R276). -/
def unspecPcm (_ : Raise) (s : State) : State := s

/-- `PCM_OUT` (R252). -/
def execPcmOut (s : State) : Host.Outcome State Fault Refusal := runCommand unspecPcm pcmOutRule s

end Sys2Proof.Machine
end

