-- ==== Sys2Proof/Machine/Precision.lean ====
section
/-! DEFINITION. The gradient and precision engine: `GRADIENT_BUILD` (R150 to R152), `PMASK_BUILD` (R154) and
`PRECISION_CALC` (R155 to R157). -/

namespace Sys2Proof.Machine

/-! ### `GRADIENT_BUILD` -/

/-- Base values: −GSV below `endUnit`, −GEV from it on, all 34 entries (R151). -/
def gradientBase (geu : Nat) (gsv gev : Int) : Units :=
  Vector.ofFn (fun i => Word.ofInt (if i.val < geu then -gsv else -gev))

/-- The interpolation term: ((CURVE_ROM[span − 1][k] × (vc − 1)) >> 8) + 1, an arithmetic shift (R152). -/
def gradientTerm (c : Config) (span k : Nat) (vc : Int) : Int :=
  (((c.curve (span - 1) k : Int) * (vc - 1)) >>> 8) + 1

/-- `for k in 0..span−1: GRADIENT[GSU + k] <- GRADIENT[GSU + k] − term` (R152). -/
def gradientSlope (c : Config) (gsu span : Nat) (vc : Int) (g : Units) : Units :=
  (List.range span).foldl
    (fun u k => Units.put u (gsu + k) (Word.ofInt (Units.int u (gsu + k) - gradientTerm c span k vc))) g

/-- The rule of `GRADIENT_BUILD` (R150 to R152). -/
def gradientBuildRule (s : State) : Except Raise State :=
  let gsu := s.gparam0.gsu.toNat
  let geu := s.gparam0.geu.toNat
  let gsv : Int := s.gparam1.gsv.toNat
  let gev : Int := s.gparam1.gev.toNat
  let base := gradientBase geu gsv gev
  if 34 < geu then .error (s.raiseHere .indexRange)
  else if gsu < geu ∧ gev - gsv ≠ 0 then
    if s.rom.curveSpans ≤ geu - gsu - 1 then .error (s.raiseHere .indexRange)
    else .ok { s with gradient := gradientSlope s.rom gsu (geu - gsu) (gev - gsv) base }
  else .ok { s with gradient := base }

/-- An error leaves `GRADIENT` unspecified (R276). -/
def unspecGradient (_ : Raise) (s : State) : State := { s with gradient := freeUnits s.freeCtr .gradient }

/-- `GRADIENT_BUILD` (R150). -/
def execGradientBuild (s : State) : Host.Outcome State Fault Refusal :=
  runCommand unspecGradient gradientBuildRule s

/-! ### `PMASK_BUILD` -/

/-- The increments unit `i` makes, from d = SF[i] − SF[i−1] (R154). -/
def pmaskStep (sf : Units) (m : Units) (i : Nat) : Units :=
  let d := Units.int sf i - Units.int sf (i - 1)
  if 1 < d then Units.put m i (Word.ofInt (Units.int m i + min (d - 1) 5))
  else if d < -1 then Units.put m (i - 1) (Word.ofInt (Units.int m (i - 1) + min (-d - 1) 5))
  else m

/-- `PMASK[c]` from `SF[c]`, for i in 1..NQU−1 in increasing order (R154). -/
def pmaskOf (sf : Units) (nqu : Nat) : Units :=
  (List.range (nqu - 1)).foldl (fun m k => pmaskStep sf m (k + 1)) Units.zero

/-- The rule of `PMASK_BUILD` (R154). -/
def pmaskBuildRule (c : Chan) (s : State) : Except Raise State := do
  s.checkNqu
  return s.setChan c { s.chan c with pmask := pmaskOf (s.chan c).sf s.nqu }

/-- An error leaves `PMASK[c]` unspecified (R276). -/
def unspecPmask (c : Chan) (_ : Raise) (s : State) : State :=
  s.setChan c { s.chan c with pmask := freeUnits s.freeCtr (.pmask c) }

/-- `PMASK_BUILD` (R154). -/
def execPmaskBuild (c : Chan) (s : State) : Host.Outcome State Fault Refusal :=
  runCommand (unspecPmask c) (pmaskBuildRule c) s

/-! ### `PRECISION_CALC` -/

/-- The sum of one unit after the mode's division, before the floor (R156): division applies to a positive sum only. -/
def modeSum (gmode : Nat) (sf gradient pmask : Int) : Int :=
  if gmode = 0 then sf + gradient
  else
    let p := sf + gradient + pmask
    if 0 < p then
      if gmode = 1 then p / 2 else if gmode = 2 then 3 * p / 8 else if gmode = 3 then p / 4 else p
    else p

/-- The precision of unit `i` before the fine split, as the int32 cell holds it: floored at `PREC_MIN` = 1, plus 1 below
the boundary (R156). -/
def wholePrecision (s : State) (c : Chan) (i : Nat) : Word :=
  let floored := Word.ofInt (max (modeSum s.gparam0.gmode.toNat (Units.int (s.chan c).sf i) (Units.int s.gradient i)
    (Units.int (s.chan c).pmask i)) 1)
  if i < min s.gparam0.gbnd.toNat s.nqu then Word.ofInt (floored.toInt + 1) else floored

/-- `PREC[c][i]` and `PRECF[c][i]`: the part above 15 becomes the fine precision; entries from NQU up are 0 (R157). -/
def fineSplit (s : State) (c : Chan) (i : Nat) : Word × Word :=
  let p := wholePrecision s c i
  if i < s.nqu then if 15 < p.toInt then (15, Word.ofInt (p.toInt - 15)) else (p, 0) else (0, 0)

/-- The rule of `PRECISION_CALC` (R155 to R157). -/
def precisionCalcRule (c : Chan) (s : State) : Except Raise State := do
  s.checkNqu
  if 3 < s.gparam0.gmode.toNat then .error (s.raiseHere .indexRange)
  return s.setChan c { s.chan c with
    prec := Vector.ofFn (fun i => (fineSplit s c i).1)
    precf := Vector.ofFn (fun i => (fineSplit s c i).2) }

/-- An error leaves `PREC[c]` and `PRECF[c]` unspecified (R276). -/
def unspecPrecision (c : Chan) (_ : Raise) (s : State) : State :=
  s.setChan c { s.chan c with
    prec := freeUnits s.freeCtr (.prec c)
    precf := freeUnits s.freeCtr (.precf c) }

/-- `PRECISION_CALC` (R155). -/
def execPrecisionCalc (c : Chan) (s : State) : Host.Outcome State Fault Refusal :=
  runCommand (unspecPrecision c) (precisionCalcRule c) s

end Sys2Proof.Machine
end

