-- ==== Sys2Proof/Machine/ScaleFactor.lean ====
section
/-! DEFINITION. The scale-factor decoder `SF_DECODE`: schemes A, B and C (R170 to R175). -/

namespace Sys2Proof.Machine

/-- What a scheme leaves: the decoded factors from unit 0 up, `SFCFG[c]`, and the advanced position. -/
structure SfResult where
  factors : List Int
  cfg : SfCfg
  pos : Nat
deriving DecidableEq, Repr

/-- Scheme A's chain: each coded value is the one before it plus a Huffman-coded difference, masked to `bl` bits
(R171). -/
def State.sfChain (s : State) (bl : Nat) : Nat → Int → Nat → Except Raise (List Int × Nat)
  | 0, _, pos => .ok ([], pos)
  | k + 1, prev, pos => do
    let d ← s.huffAt pos bl
    let raw := (prev + d.1) % 2 ^ bl
    let rest ← s.sfChain bl k raw d.2
    return (raw :: rest.1, rest.2)

/-- Scheme A's coded values: the first raw, then the chain; none when NQU = 0 (R171, R88). -/
def State.sfCodedValues (s : State) (bl nqu pos : Nat) : Except Raise (List Int × Nat) :=
  match nqu with
  | 0 => .ok ([], pos)
  | k + 1 => do
    let first ← s.read pos bl
    let rest ← s.sfChain bl k first.1 first.2
    return ((first.1 : Int) :: rest.1, rest.2)

/-- Offset and weight correction: value + off − WEIGHT_ROM[wt][i] (R171, R173). -/
def correctFactors (c : Config) (off wt : Nat) (raw : List Int) : List Int :=
  raw.zipIdx.map (fun e => e.1 + off - c.weight wt e.2)

/-- Scheme A (R171). -/
def State.schemeA (s : State) (cfg : SfCfg) (pos : Nat) : Except Raise SfResult := do
  let sel ← s.read pos Config.sfSelBits
  let bl := sel.1 + Config.sfABase
  let off ← s.read sel.2 s.rom.sfOffsetBits
  let wt ← s.read off.2 Config.sfWeightBits
  let raw ← s.sfCodedValues bl s.nqu wt.2
  return ⟨correctFactors s.rom off.1 wt.1 raw.1,
    { cfg with sfblen := BitVec.ofNat 4 bl, sfoff := BitVec.ofNat 8 off.1, sfwt := BitVec.ofNat 3 wt.1 }, raw.2⟩

/-- Scheme B: raw 5-bit values for a width above 4, else corrected values of that width (R173). -/
def State.schemeB (s : State) (cfg : SfCfg) (pos : Nat) : Except Raise SfResult := do
  let sel ← s.read pos Config.sfSelBits
  let bl := sel.1 + s.rom.sfBBase
  let cfg := { cfg with sfblen := BitVec.ofNat 4 bl }
  if Config.sfBRawThreshold < bl then
    let raw ← s.readMany Config.sfBRawBits s.nqu sel.2
    return ⟨raw.1.map Int.ofNat, cfg, raw.2⟩
  else
    let off ← s.read sel.2 s.rom.sfOffsetBits
    let wt ← s.read off.2 Config.sfWeightBits
    let raw ← s.readMany bl s.nqu wt.2
    return ⟨correctFactors s.rom off.1 wt.1 (raw.1.map Int.ofNat),
      { cfg with sfoff := BitVec.ofNat 8 off.1, sfwt := BitVec.ofNat 3 wt.1 }, raw.2⟩

/-- Scheme C's values: the other channel's factor at the same unit plus a signed difference, from unit `i` up (R174). -/
def State.sfDeltas (s : State) (t : Nat) : Nat → Nat → Nat → Except Raise (List Int × Nat)
  | 0, _, pos => .ok ([], pos)
  | k + 1, i, pos => do
    let d ← s.huffAt pos t
    let rest ← s.sfDeltas t k (i + 1) d.2
    return ((Units.int s.ch0.sf i + d.1) :: rest.1, rest.2)

/-- Scheme C: differences against channel c − 1, which is channel 0 as it stands (R174, R175). -/
def State.schemeC (s : State) (cfg : SfCfg) (pos : Nat) : Except Raise SfResult := do
  let sel ← s.read pos Config.sfSelBits
  let bl := sel.1 + Config.sfCBase
  let r ← s.sfDeltas (7 + bl) s.nqu 0 sel.2
  return ⟨r.1, { cfg with sfblen := BitVec.ofNat 4 bl }, r.2⟩

/-- The scheme that the mode flag and the local channel index select (R170). -/
def State.sfScheme (s : State) (mode : Nat) (l : LocalCh) (cfg : SfCfg) (pos : Nat) : Except Raise SfResult :=
  if mode = 0 then s.schemeA cfg pos
  else match l with
    | .l0 => s.schemeB cfg pos
    | .l1 => s.schemeC cfg pos

/-- The factor array: the decoded values, and 0 from NQU up (R170). -/
def factorUnits (factors : List Int) : Units := Vector.ofFn (fun i => Word.ofInt (factors.getD i 0))

/-- The rule of `SF_DECODE` (R170). -/
def sfDecodeRule (c : Chan) (l : LocalCh) (s : State) : Except Raise State := do
  s.checkNqu
  let mode ← s.read s.brPos.toNat Config.sfModeBits
  let r ← s.sfScheme mode.1 l { (s.chan c).sfcfg with sfmode := BitVec.ofNat 1 mode.1 } mode.2
  return (s.setChan c { s.chan c with sf := factorUnits r.factors, sfcfg := r.cfg }).setBrPos r.pos

/-- An error leaves `SF[c]` and `SFCFG[c]` unspecified (R276), and `BR_POS` as `cursorAfter` says. -/
def unspecSf (c : Chan) (e : Raise) (s : State) : State :=
  { s.setChan c { s.chan c with
      sf := freeUnits s.freeCtr (.sf c)
      sfcfg := SfCfg.ofWord (Config.freeWord s.freeCtr (.sfcfg c)) } with
    brPos := s.cursorAfter e }

/-- `SF_DECODE` (R170). `LCH = 1` with `CH = 0` is an illegal command (R83). -/
def execSfDecode (c : Chan) (l : LocalCh) (s : State) : Host.Outcome State Fault Refusal :=
  if channelFieldsOk c l then runCommand (unspecSf c) (sfDecodeRule c l) s else .next s.raiseIllegal

end Sys2Proof.Machine
end

