-- ==== Sys2Proof/Machine/Frame.lean ====
section
/-! DEFINITION. The frame sequencer `DECODE_FRAME` (R253 to R260). Each step is the rule of the command of the same name;
an error in a step ends the command (R253). -/

namespace Sys2Proof.Machine

/-- `ChannelBody(c, l)` (R254). -/
def channelBody (c : Chan) (l : LocalCh) (s : State) : Except Raise State := do
  let s ← sfDecodeRule c l s
  let s ← pmaskBuildRule c s
  let s ← precisionCalcRule c s
  let s ← specDecodeRule c s
  let s ← specFineDecodeRule c s
  let s ← dequantRule c s
  let s ← scaleRule c s
  imdctWorkRule c s

/-- The channels of sub-block `b` in increasing local index, from `l` on (R257). -/
def channelLoop (chb b : Nat) : Nat → Nat → State → Except Raise State
  | 0, _, s => .ok s
  | k + 1, l, s => do
    let s ← channelBody (.ofNat (b * chb + l)) (.ofNat l) s
    channelLoop chb b k (l + 1) s

/-- One sub-block: band and gradient fields, its channels, the alignment (R255, R257). -/
def subBlock (chb b : Nat) (s : State) : Except Raise State := do
  let s ← parseBandRule s
  let s ← parseGradientRule s
  let s ← gradientBuildRule s
  let s ← channelLoop chb b chb 0 s
  let p ← alignPos Config.blockAlignBits s.brPos.toNat
  return s.setBrPos p

/-- The sub-blocks, from `b` on (R255). -/
def subBlockLoop (chb : Nat) : Nat → Nat → State → Except Raise State
  | 0, _, s => .ok s
  | k + 1, b, s => do
    let s ← subBlock chb b s
    subBlockLoop chb k (b + 1) s

/-- The start snapshot: `WORK_PREV <- PREV`, both channels (R256). -/
def snapshot (s : State) : State :=
  { s with ch0 := { s.ch0 with workPrev := s.ch0.prev }, ch1 := { s.ch1 with workPrev := s.ch1.prev } }

/-- `FRAME_TOTAL_BYTES = FLEN + FLEN_ADJ` (R258). -/
def State.frameBytes (s : State) : Int := s.flen.toNat + s.rom.flenAdj

/-- The frame end: a body that read past it raises `FRAME_OVERRUN`, else `BR_POS` is set there (R258). -/
def frameEnd (start : Nat) (s : State) : Except Raise State :=
  let stop : Int := start + 8 * s.frameBytes
  if stop < s.brPos.toNat then .error (s.raiseHere .frameOverrun) else .ok { s with brPos := Word.ofInt stop }

/-- The commit: `PREV <- WORK_PREV`, both channels, and `BYTES_CONSUMED` (R258). -/
def commit (s : State) : State :=
  { s with
    ch0 := { s.ch0 with prev := s.ch0.workPrev }
    ch1 := { s.ch1 with prev := s.ch1.workPrev }
    bytesConsumed := Word.ofInt s.frameBytes }

/-- Sub-blocks and channels per sub-block of the frame's configuration code (R245). The header has checked the code. -/
def State.frameShape (s : State) : CcidEntry := (s.rom.ccid s.hdr.ccid.toNat).getD ⟨0, 0, 0⟩

/-- The rule of `DECODE_FRAME` (R255). -/
def decodeFrameRule (s : State) : Except Raise State := do
  let start := s.brPos.toNat
  let s ← parseHeaderRule { s with bytesConsumed := 0 }
  let s := snapshot s
  let s ← subBlockLoop s.frameShape.chb s.frameShape.blocks 0 s
  let s ← frameEnd start s
  let s ← pcmOutRule s
  return commit s

/-- The cells of one channel that a frame could write, unspecified; `PREV` keeps its value (R259, R276). -/
def freeFrameChannel (k : Nat) (c : Chan) (x : Channel) : Channel where
  sf := freeUnits k (.sf c)
  prec := freeUnits k (.prec c)
  precf := freeUnits k (.precf c)
  pmask := freeUnits k (.pmask c)
  qspec := freeLines k (.qspec c)
  qspecf := freeLines k (.qspecf c)
  spec := freeLines k (.spec c)
  pcm := freeLines k (.pcm c)
  prev := x.prev
  workPrev := freeLines k (.workPrev c)
  sfcfg := SfCfg.ofWord (Config.freeWord k (.sfcfg c))
  mbits := (Config.freeWord k (.mbits c)).extractLsb' 0 4

/-- The errors of a frame after which the spec says that `OUT_BUF` is unchanged: `SYNC` (R246), `OUT_RANGE` (R252; no other
check of `PCM_OUT` can fail inside a frame, `frame_pcmOut_error`) and `FRAME_OVERRUN` (95_test_vectors.md P5, log 25). -/
def ErrCode.keepsOutBuf : ErrCode → Bool
  | .sync => true
  | .badWidth => false
  | .badTable => false
  | .huffInvalid => false
  | .jointInvalid => false
  | .indexRange => false
  | .overrun => false
  | .illegalCmd => false
  | .notInit => false
  | .frameOverrun => true
  | .outRange => true
  | .badSize => false

/-- The errors of a frame after which the spec says that `OUT_PTR` is unchanged: those of `keepsOutBuf`, and `JOINT_INVALID`
(the variant of 95_test_vectors.md P5, which does not name `OUT_BUF`; log 25). -/
def ErrCode.keepsOutPtr : ErrCode → Bool
  | .sync => true
  | .badWidth => false
  | .badTable => false
  | .huffInvalid => false
  | .jointInvalid => true
  | .indexRange => false
  | .overrun => false
  | .illegalCmd => false
  | .notInit => false
  | .frameOverrun => true
  | .outRange => true
  | .badSize => false

/-- How many bytes from `OUT_PTR` up a frame can write: those of two channels of 256 samples, inside `OUT_BUF` (R252). -/
def State.frameRoom (s : State) : Nat := min (2 * 256 * s.sampleBytes) (s.rom.outBufBytes - s.outPtrByte)

/-- `OUT_BUF` with the bytes that a frame can write unspecified (R259, R276; DEDUCED which bytes, log 25). -/
def State.freeOutBuf (s : State) : Memory :=
  s.outBuf.putBytes s.outPtrByte ((List.range s.frameRoom).map
    (fun k => (Config.freeWord s.freeCtr (.outByte (s.outPtrByte + k))).extractLsb' 0 8))

/-- What an error `e` of a frame leaves in `OUT_BUF`; `s` is the state before the command. -/
def State.outBufAfter (s : State) (e : Raise) : Memory := if e.err.keepsOutBuf then s.outBuf else s.freeOutBuf

/-- What an error `e` of a frame leaves in `OUT_PTR`: its value, or an unspecified one (R259, R276). -/
def State.outPtrAfter (s : State) (e : Raise) : BitVec 30 :=
  if e.err.keepsOutPtr then s.outPtr else (Config.freeWord s.freeCtr .outPtr).extractLsb' 2 30

/-- What an error in `DECODE_FRAME` leaves: `BYTES_CONSUMED` is 0 and `PREV` is unchanged; after `SYNC` nothing else changes
either (R246); after any other error every other cell the frame could write is unspecified (R259, R276), but `BR_POS`,
`OUT_PTR` and `OUT_BUF` are as `cursorAfter`, `outPtrAfter` and `outBufAfter` say. -/
def unspecFrame (e : Raise) (s : State) : State :=
  if e.err = .sync then { s with bytesConsumed := 0 }
  else { s with
    outPtr := s.outPtrAfter e
    outBuf := s.outBufAfter e
    bytesConsumed := 0
    hdr := Hdr.ofWord (Config.freeWord s.freeCtr .hdr)
    flen := (Config.freeWord s.freeCtr .flen).extractLsb' 0 16
    geom := Geom.ofWord (Config.freeWord s.freeCtr .geom)
    gparam0 := GParam0.ofWord (Config.freeWord s.freeCtr .gparam0)
    gparam1 := GParam1.ofWord (Config.freeWord s.freeCtr .gparam1)
    gradient := freeUnits s.freeCtr .gradient
    brPos := s.cursorAfter e
    ch0 := freeFrameChannel s.freeCtr .c0 s.ch0
    ch1 := freeFrameChannel s.freeCtr .c1 s.ch1 }

/-- `DECODE_FRAME` (R255). -/
def execDecodeFrame (s : State) : Host.Outcome State Fault Refusal := runCommand unspecFrame decodeFrameRule s

end Sys2Proof.Machine
end

