-- ==== Sys2Proof/Machine/Dispatch.lean ====
section
/-! DEFINITION. One arm per command. `exec` runs an accepted command: `step` has set `CMD_LAST`, cleared `DONE`, `ERR` and
`ERR_CODE` and set `BUSY` (R240). -/

namespace Sys2Proof.Machine

def exec (i : Instr) (s : State) : Host.Outcome State Fault Refusal :=
  match i with
  | .nop => Sys2Proof.Machine.execNop s
  | .init => Sys2Proof.Machine.execInit s
  | .decodeFrame => Sys2Proof.Machine.execDecodeFrame s
  | .brPeek n => Sys2Proof.Machine.execBrPeek n s
  | .brRead n => Sys2Proof.Machine.execBrRead n s
  | .brReadSigned n => Sys2Proof.Machine.execBrReadSigned n s
  | .brReadOb n => Sys2Proof.Machine.execBrReadOb n s
  | .brAlign => Sys2Proof.Machine.execBrAlign s
  | .huffDecode t => Sys2Proof.Machine.execHuffDecode t s
  | .parseHeader => Sys2Proof.Machine.execParseHeader s
  | .parseBand => Sys2Proof.Machine.execParseBand s
  | .parseGradient => Sys2Proof.Machine.execParseGradient s
  | .gradientBuild => Sys2Proof.Machine.execGradientBuild s
  | .pmaskBuild c => Sys2Proof.Machine.execPmaskBuild c s
  | .precisionCalc c => Sys2Proof.Machine.execPrecisionCalc c s
  | .sfDecode c l => Sys2Proof.Machine.execSfDecode c l s
  | .specDecode c => Sys2Proof.Machine.execSpecDecode c s
  | .specFineDecode c => Sys2Proof.Machine.execSpecFineDecode c s
  | .dequant c => Sys2Proof.Machine.execDequant c s
  | .scale c => Sys2Proof.Machine.execScale c s
  | .imdct c => Sys2Proof.Machine.execImdct c s
  | .pcmOut => Sys2Proof.Machine.execPcmOut s

end Sys2Proof.Machine
end

