-- ==== Sys2Proof/Machine/HostBus.lean ====
section
/-! DEFINITION. The host's view of the block: the address map (R22 to R51, R60), which accesses are admitted (R66), what a
read returns and what a write to anything but `CMD` stores. -/

namespace Sys2Proof.Machine

/-- A location of the register and channel windows. -/
inductive HostReg where
  | id
  | ctrl
  | status
  | cmd
  | arg
  | result
  | brPos
  | inLen
  | outPtr
  | bytesConsumed
  | errPos
  | errCmd
  | hdr
  | flen
  | geom
  | gparam0
  | gparam1
  | gradient (i : Nat)
  | sf (c : Chan) (i : Nat)
  | prec (c : Chan) (i : Nat)
  | precf (c : Chan) (i : Nat)
  | pmask (c : Chan) (i : Nat)
  | qspec (c : Chan) (sb : Nat)
  | qspecf (c : Chan) (sb : Nat)
  | spec (c : Chan) (sb : Nat)
  | pcm (c : Chan) (n : Nat)
  | prev (c : Chan) (n : Nat)
  | sfcfg (c : Chan)
  | mbits (c : Chan)
deriving DecidableEq, Repr

/-- What a block offset lies in (R60). -/
inductive HostSpace where
  /-- a listed word of `REG` or `CHAN` -/
  | reg (r : HostReg)
  /-- an offset of `REG` or `CHAN` that is not listed -/
  | reservedWord
  /-- byte `a` of the window of a RAM -/
  | ram (m : Ram) (a : Nat)
  /-- an offset in no space of the table -/
  | reserved
deriving DecidableEq, Repr

/-- `ID` reads "LDAC" (R22). -/
def idValue : Word := 0x4C444143

/-- The offset of `CMD` (R23). -/
def cmdOffset : BitVec 18 := 0x0000C

/-- The registers of the `REG` space by offset (R22 to R39). -/
def regAt (o : Nat) : Option HostReg :=
  if o = 0x000 then some .id
  else if o = 0x004 then some .ctrl
  else if o = 0x008 then some .status
  else if o = 0x00C then some .cmd
  else if o = 0x010 then some .arg
  else if o = 0x014 then some .result
  else if o = 0x018 then some .brPos
  else if o = 0x01C then some .inLen
  else if o = 0x020 then some .outPtr
  else if o = 0x024 then some .bytesConsumed
  else if o = 0x028 then some .errPos
  else if o = 0x02C then some .errCmd
  else if o = 0x030 then some .hdr
  else if o = 0x034 then some .flen
  else if o = 0x038 then some .geom
  else if o = 0x03C then some .gparam0
  else if o = 0x040 then some .gparam1
  else if 0x100 ≤ o ∧ o < 0x100 + 4 * 34 then some (.gradient ((o - 0x100) / 4))
  else none

/-- A 34-element array at `base` of a channel window. -/
def unitElem (base o : Nat) (r : Nat → HostReg) : Option HostReg :=
  if base ≤ o ∧ o < base + 4 * 34 then some (r ((o - base) / 4)) else none

/-- A 256-element array at `base` of a channel window. -/
def lineElem (base o : Nat) (r : Nat → HostReg) : Option HostReg :=
  if base ≤ o ∧ o < base + 4 * 256 then some (r ((o - base) / 4)) else none

/-- The arrays and registers of a channel window by offset from its base (R41 to R51). -/
def chanRegAt (c : Chan) (o : Nat) : Option HostReg :=
  (unitElem 0x0000 o (.sf c)).or <| (unitElem 0x0100 o (.prec c)).or <| (unitElem 0x0200 o (.precf c)).or <|
  (unitElem 0x0300 o (.pmask c)).or <| (lineElem 0x0400 o (.qspec c)).or <| (lineElem 0x0800 o (.qspecf c)).or <|
  (lineElem 0x0C00 o (.spec c)).or <| (lineElem 0x1000 o (.pcm c)).or <| (lineElem 0x1400 o (.prev c)).or <|
  if o = 0x1800 then some (.sfcfg c) else if o = 0x1804 then some (.mbits c) else none

/-- A listed word, or a reserved one. -/
def wordSpace : Option HostReg → HostSpace
  | some r => .reg r
  | none => .reservedWord

/-- The address map of R60. A RAM's window runs to the next space's base; `admitted` checks the RAM's size. -/
def spaceAt (o : Nat) : HostSpace :=
  if o < 0x200 then wordSpace (regAt o)
  else if 0x2000 ≤ o ∧ o < 0x4000 then wordSpace (chanRegAt .c0 (o - 0x2000))
  else if 0x4000 ≤ o ∧ o < 0x6000 then wordSpace (chanRegAt .c1 (o - 0x4000))
  else if 0x10000 ≤ o ∧ o < 0x20000 then .ram .input (o - 0x10000)
  else if 0x20000 ≤ o then .ram .output (o - 0x20000)
  else .reserved

/-- An access width in bytes. -/
def AccessWidth.bytes : AccessWidth → Nat
  | .w8 => 1
  | .w16 => 2
  | .w32 => 4

/-- The size of a RAM in bytes (R6). -/
def ramSize (c : Config) : Ram → Nat
  | .input => c.inBufBytes
  | .output => c.outBufBytes

/-- The accesses R66 admits: aligned words in `REG` and `CHAN`; 8, 16 or 32 bits, naturally aligned and within the RAM's
size, in `IN_BUF` and `OUT_BUF`. Of the offsets in no space R60 only says that they read as 0; DESIGN CHOICE: any naturally
aligned width is admitted there, `unsafe` (log 11). -/
def admitted (c : Config) (width : AccessWidth) (o : Nat) : Bool :=
  o % width.bytes == 0 &&
  match spaceAt o with
  | .reg _ => width == .w32
  | .reservedWord => width == .w32
  | .ram m a => decide (a + width.bytes ≤ ramSize c m)
  | .reserved => true

/-- While `BUSY = 1` the host may read `ID` and `STATUS` only (R70). -/
def readableWhileBusy : HostSpace → Bool
  | .reg .id => true
  | .reg .status => true
  | _ => false

/-- What a register or array word reads as (R21 to R51). -/
def State.readReg (s : State) : HostReg → Word
  | .id => idValue
  | .ctrl => s.ctrl.toWord
  | .status => s.status.toWord
  | .cmd => s.cmdLast
  | .arg => s.arg
  | .result => s.result
  | .brPos => s.brPos
  | .inLen => s.inLen
  | .outPtr => s.outPtrWord
  | .bytesConsumed => s.bytesConsumed
  | .errPos => s.errPos
  | .errCmd => s.errCmd
  | .hdr => s.hdr.toWord
  | .flen => s.flen.zeroExtend 32
  | .geom => s.geom.toWord
  | .gparam0 => s.gparam0.toWord
  | .gparam1 => s.gparam1.toWord
  | .gradient i => Units.at s.gradient i
  | .sf c i => Units.at (s.chan c).sf i
  | .prec c i => Units.at (s.chan c).prec i
  | .precf c i => Units.at (s.chan c).precf i
  | .pmask c i => Units.at (s.chan c).pmask i
  | .qspec c i => Lines.at (s.chan c).qspec i
  | .qspecf c i => Lines.at (s.chan c).qspecf i
  | .spec c i => Lines.at (s.chan c).spec i
  | .pcm c i => Lines.at (s.chan c).pcm i
  | .prev c i => Lines.at (s.chan c).prev i
  | .sfcfg c => (s.chan c).sfcfg.toWord
  | .mbits c => (s.chan c).mbits.zeroExtend 32

/-- What a host write stores (R21): the value truncated to the fields; a read-only location ignores it. A write to `CMD`
submits a command instead, which is `step`'s part (R23, R240); here it stores nothing. -/
def State.writeReg (s : State) (w : Word) : HostReg → State
  | .id => s
  | .ctrl => { s with ctrl := Ctrl.ofWord w }
  | .status => { s with status := s.status.hostWrite w }
  | .cmd => s
  | .arg => { s with arg := w }
  | .result => s
  | .brPos => { s with brPos := w }
  | .inLen => s.setInLen w
  | .outPtr => s.setOutPtr w
  | .bytesConsumed => s
  | .errPos => s
  | .errCmd => s
  | .hdr => { s with hdr := Hdr.ofWord w }
  | .flen => { s with flen := w.extractLsb' 0 16 }
  | .geom => { s with geom := Geom.ofWord w }
  | .gparam0 => { s with gparam0 := GParam0.ofWord w }
  | .gparam1 => { s with gparam1 := GParam1.ofWord w }
  | .gradient i => { s with gradient := Units.put s.gradient i w }
  | .sf c i => s.setChan c { s.chan c with sf := Units.put (s.chan c).sf i w }
  | .prec c i => s.setChan c { s.chan c with prec := Units.put (s.chan c).prec i w }
  | .precf c i => s.setChan c { s.chan c with precf := Units.put (s.chan c).precf i w }
  | .pmask c i => s.setChan c { s.chan c with pmask := Units.put (s.chan c).pmask i w }
  | .qspec c i => s.setChan c { s.chan c with qspec := Lines.put (s.chan c).qspec i w }
  | .qspecf c i => s.setChan c { s.chan c with qspecf := Lines.put (s.chan c).qspecf i w }
  | .spec c i => s.setChan c { s.chan c with spec := Lines.put (s.chan c).spec i w }
  | .pcm c i => s.setChan c { s.chan c with pcm := Lines.put (s.chan c).pcm i w }
  | .prev _ _ => s
  | .sfcfg c => s.setChan c { s.chan c with sfcfg := SfCfg.ofWord w }
  | .mbits c => s.setChan c { s.chan c with mbits := w.extractLsb' 0 4 }

/-- The byte a RAM holds. -/
def State.ramByteAt (s : State) (m : Ram) (a : Nat) : Byte :=
  match m with
  | .input => s.inByte a
  | .output => s.outByte a

/-- `n` bytes from address `a` upward as a little-endian number; host words are little-endian (R64; for the RAMs read from
92_eei_decisions.md D4, log 10). -/
def State.ramValue (s : State) (m : Ram) (a : Nat) : Nat → Nat
  | 0 => 0
  | n + 1 => (s.ramByteAt m a).toNat + 256 * s.ramValue m (a + 1) n

/-- `n` bytes of a word stored from address `a` upward; a narrow write takes the word's low bits (DESIGN CHOICE, log 24). -/
def State.writeRam (s : State) (m : Ram) (a n : Nat) (w : Word) : State :=
  match m with
  | .input => { s with inBuf := s.inBuf.putBytes a (leBytes n w) }
  | .output => { s with outBuf := s.outBuf.putBytes a (leBytes n w) }

/-- What an admitted read returns while the block is idle; reserved offsets read 0 (R60). The spec says nothing of the data
bits above an 8- or 16-bit read of a RAM: the model gives the bytes in the low bits and zeros above. DESIGN CHOICE, `unsafe`
(log 24). -/
def State.readSpace (s : State) (width : AccessWidth) : HostSpace → Word
  | .reg r => s.readReg r
  | .reservedWord => 0
  | .ram m a => Word.ofNat (s.ramValue m a width.bytes)
  | .reserved => 0

/-- What an admitted write stores while the block is idle; reserved offsets ignore writes (R60). -/
def State.writeSpace (s : State) (width : AccessWidth) (w : Word) : HostSpace → State
  | .reg r => s.writeReg w r
  | .reservedWord => s
  | .ram m a => s.writeRam m a width.bytes w
  | .reserved => s

/-- A host read (R66, R67, R70). Reads have no side effects on the block; while busy, what it returns is unspecified but
for `ID` and `STATUS`. -/
def hostRead (s : State) (width : AccessWidth) (o : Nat) : Host.Outcome State Fault Refusal :=
  if admitted s.rom width o = false then .refused .hostDutyViolation
  else if s.status.busy && !readableWhileBusy (spaceAt o) then
    .next { s with hostData := Config.freeWord s.freeCtr .busData, freeCtr := s.freeCtr + 1 }
  else .next { s with hostData := s.readSpace width (spaceAt o) }

/-- A host write to anything but `CMD` (R66, R67). While busy it breaks a host duty and has no step (R72); a write to
`STATUS` breaks none and is ignored (R21, R70; log 13). -/
def hostWrite (s : State) (width : AccessWidth) (o : Nat) (w : Word) : Host.Outcome State Fault Refusal :=
  if admitted s.rom width o = false then .refused .hostDutyViolation
  else if s.status.busy then if spaceAt o = .reg .status then .next s else .refused .hostDutyViolation
  else .next (s.writeSpace width w (spaceAt o))

/-- The block offset of a host address: the 256 KiB window stands at `BLOCK_BASE` (R60). -/
def busOffset (c : Config) (addr : Nat) : Option (BitVec 18) :=
  if c.blockBase ≤ addr ∧ addr < c.blockBase + 2 ^ 18 then some (BitVec.ofNat 18 (addr - c.blockBase)) else none

/-- The reset input (R300): every cell at its reset value, RAM contents and `WORK_PREV` unspecified anew. The
configuration and what the host does next are not the block's state and stay. -/
def resetInput (s : State) : State :=
  { State.resetWith s.cfg s.freeCtr with hostQueue := s.hostQueue, hostData := s.hostData }

end Sys2Proof.Machine
end

