-- ==== Sys2Proof/Machine/Accept.lean ====
section
/-! DEFINITION. Command acceptance (R23, R240): what a host write to `CMD` does. -/

namespace Sys2Proof.Machine

/-- A command is submitted only while `BUSY = 0` and `FATAL = 0` (R23). -/
def State.ready (s : State) : Bool := !s.status.busy && !s.status.fatal

/-- Acceptance of word `w`: `CMD_LAST`, the cleared flags and `BUSY` (R240). -/
def State.accept (s : State) (w : Word) : State := { s with cmdLast := w, status := s.status.accept }

/-- An accepted word: an illegal one raises `ILLEGAL_CMD`, any other runs its command (R240). The command itself raises
`NOT_INIT` before `INIT`, after this check (R274). -/
def runWord (w : Word) (s : State) : Host.Outcome State Fault Refusal :=
  match decodeWord w with
  | none => .next s.raiseIllegal
  | some i => exec i s

/-- A host write of `w` to `CMD`: ignored after a fatal error (R23, R240, R275). While busy it breaks a host duty and
has no step (R72, log 13). -/
def submit (w : Word) (s : State) : Host.Outcome State Fault Refusal :=
  if s.ready then runWord w (s.accept w)
  else if s.status.busy then .refused .hostDutyViolation
  else .next s

/-- One action of the host or the platform. A write to `CMD` is an aligned 32-bit access like any other to `REG`. -/
def act (s : State) : HostAction → Host.Outcome State Fault Refusal
  | .read width o => hostRead s width o.toNat
  | .write width o w => if o = cmdOffset ∧ width = .w32 then submit w s else hostWrite s width o.toNat w
  | .reset => .next (resetInput s)

end Sys2Proof.Machine
end

