-- ==== Sys2Proof/Machine/Step.lean ====
section
/-! DEFINITION. One step: the next action of the host or the platform, in the host's program order (R71). Each command is
one atomic transition (R3, R318). With nothing asked of it the block stays as it is (R20). -/

namespace Sys2Proof.Machine

/-- One step of the machine. -/
def step (s : State) : Host.Outcome State Fault Refusal :=
  match s.hostQueue with
  | [] => .next s
  | a :: rest => act { s with hostQueue := rest } a

/-- The block fetches no instructions (R74): a command comes to run when the host writes its word to `CMD` (R23). So the
next host action is that write; everything else stays. The word's bits above `nbits` are 0. -/
def State.withFetchWord (s : State) (nbits w : Nat) : State :=
  { s with hostQueue := .write .w32 cmdOffset (BitVec.ofNat 32 (w % 2 ^ nbits)) :: s.hostQueue }

end Sys2Proof.Machine
end

