-- ==== Sys2Proof/Safety.lean ====
section
/-! DEFINITION. What counts as a safe run: the invariant of the block's state, and an outcome in which the machine goes
on. -/

namespace Sys2Proof.Machine

/-- The machine goes on: neither a fault nor a refusal. -/
def goesOn : Host.Outcome State Fault Refusal → Bool
  | .next _ => true
  | .fault _ => false
  | .refused _ => false

/-! ### The terms claims use -/

/-- The `n`-bit field at position `pos` of the input, most significant bit first (R63). -/
def State.field (s : State) (pos : Nat) : Nat → Nat
  | 0 => 0
  | n + 1 => 2 * s.field pos n + s.streamBit (pos + n)

/-- The `n` bits at position `pos` are below the readable limit, and a width is at most 32 (R110, R111). -/
def State.readable (s : State) (pos n : Nat) : Prop := n ≤ 32 ∧ (n = 0 ∨ pos + n ≤ s.limitBits)

/-! ### The invariant -/

/-- What holds of the block between two steps. -/
structure State.Inv (s : State) : Prop where
  /-- each command is one atomic step, so the block is idle between steps (R2, R3) -/
  idle : s.status.busy = false
  /-- `FATAL` is set with `ERR`, and `ERR` then stays (R25, R275) -/
  fatalErr : s.status.fatal = true → s.status.err = true
  /-- codes above 12 are never produced (R270) -/
  codeRange : s.status.errCode.toNat ≤ 12
  /-- `ERR` comes with the code of an error (R25, R270) -/
  errCoded : s.status.err = true → s.status.errCode ≠ 0
  /-- `FATAL` comes with the code of a fatal error, which every code but `SYNC`'s is (R270, R275) -/
  fatalCoded : s.status.fatal = true → s.status.errCode ≠ 1
  /-- `IN_LEN` is never above `IN_BUF_BYTES` (R29) -/
  inLenBound : s.inLen.toNat ≤ s.rom.inBufBytes
  /-- `HLUT` is every entry `INVALID` before `INIT` and a function of `HUFF_ROM` alone after it (R53, R243) -/
  luts : s.hlut = if s.status.initDone then buildLuts s.rom else Vector.replicate 13 []
  /-- `IN_BUF` is in canonical form -/
  inWf : s.inBuf.wf = true
  /-- `OUT_BUF` is in canonical form -/
  outWf : s.outBuf.wf = true
  /-- `IN_BUF` holds bytes below `IN_BUF_BYTES` only (R60) -/
  inBound : ∀ e ∈ s.inBuf, e.1 < s.rom.inBufBytes
  /-- `OUT_BUF` holds bytes below `OUT_BUF_BYTES` only (R60) -/
  outBound : ∀ e ∈ s.outBuf, e.1 < s.rom.outBufBytes

end Sys2Proof.Machine
end

