-- ==== Sys2Proof/Certificates/Slice0/Obligations.lean ====
section
/-! DEFINITION. The statements for the provers, and the words they are written in. Each statement's docstring names the
rule it formalises. -/

namespace Sys2Proof.Claims

open Sys2Proof.Machine

/-! ### How a command ends -/

/-- `s` with its command ended without an error: `BUSY` 0, `DONE` 1 (R240). -/
def finished (s : State) : State := { s with status := { s.status with busy := false, done := true } }

/-- `t` reports the error with this code at this bit position, for the command last accepted in `s` (R271, R272); every
code but 1 is fatal (R270). -/
def reports (s t : State) (code : BitVec 8) (pos : Nat) : Prop :=
  t.status = { s.status with
    busy := false, done := true, err := true, errCode := code, fatal := s.status.fatal || code != 1 } ∧
  t.errPos = BitVec.ofNat 32 pos ∧ t.errCmd = s.cmdLast

/-- `t` is `s` but for the flags, the error registers and the model's count of unspecified values. -/
def onlyFlags (s t : State) : Prop :=
  t = { s with status := t.status, errPos := t.errPos, errCmd := t.errCmd, freeCtr := t.freeCtr }

/-- Every byte of both RAMs reads in `t` as it does in `s`. -/
def sameBytes (s t : State) : Prop := ∀ a, t.inByte a = s.inByte a ∧ t.outByte a = s.outByte a

/-- Offset `a` of `OUT_BUF` lies below `OUT_PTR`, or beyond the PCM of two channels of 256 samples from there: bytes that no
`PCM_OUT` and no frame can write (R252). -/
def beyondPcm (s : State) (a : Nat) : Prop :=
  a < s.outPtrWord.toNat ∨ s.outPtrWord.toNat + 2 * 256 * (if s.ctrl.outFmt then 4 else 2) ≤ a

/-! ### Host actions -/

/-- The next host action writes `w` to `CMD`, a word at offset 0x00C (R23). -/
def writesCmd (s : State) (w : Word) (rest : List HostAction) : Prop :=
  s.hostQueue = .write .w32 0x0000C w :: rest

/-- The bytes an access of this width covers (R66). -/
def widthBytes : AccessWidth → Nat
  | .w8 => 1
  | .w16 => 2
  | .w32 => 4

/-- `s` after acceptance of `w`: `CMD_LAST`, the cleared flags, `BUSY` (R240). -/
def accepted (s : State) (w : Word) (rest : List HostAction) : State :=
  { s with
    hostQueue := rest
    cmdLast := w
    status := { s.status with done := false, err := false, errCode := 0, busy := true } }

/-! ### The bitstream -/

/-- Bit `p` of the input: bit 7 − (p mod 8) of byte `IN_BUF[p div 8]` (R63). -/
def inputBit (s : State) (p : Nat) : Bool := (s.inByte (p / 8)).getLsbD (7 - p % 8)

/-- An `n`-bit value in two's complement (R9). -/
def signed (n v : Nat) : Int := if n = 0 then 0 else if 2 ^ n ≤ 2 * v then (v : Int) - 2 ^ n else v

/-- The cursor as a number. -/
abbrev cursor (s : State) : Nat := s.brPos.toNat

/-- Symbol `i` of a codebook has a code (R91). -/
def usedSymbol (t : HuffTable) (i : Nat) : Prop := i < 2 ^ t.vb ∧ t.len i ≠ 0

/-- Window `w` lies in the slots of symbol `i`, `CODES[i] << u` to `((CODES[i] + 1) << u) − 1` (R131). -/
def covers (t : HuffTable) (i w : Nat) : Prop :=
  t.code i * 2 ^ (t.maxb - t.len i) ≤ w ∧ w < (t.code i + 1) * 2 ^ (t.maxb - t.len i)

/-- `HLUT` holds what R131 puts there: slot `w` of table `id` is symbol `i` exactly when `i` is used and its slots
include `w`; any other slot is `INVALID`. -/
def lutsHold (s : State) : Prop :=
  ∀ id, id ≤ 12 → ∀ w, w < 2 ^ (s.rom.huff id).maxb → ∀ i,
    lutLookup (s.hlut.getD id []) w = some i ↔ usedSymbol (s.rom.huff id) i ∧ covers (s.rom.huff id) i w

/-- The value symbol `i` of table `id` stands for: two's complement of `id − 7` bits in the signed tables (R132, R133). -/
def symbolMeans (id i : Nat) : Int := if 7 ≤ id then signed (id - 7) i else i

/-- From position `p` to `q` the stream holds the codes of these symbols of table `id`, each with a readable window
(R133). -/
def codesAt (s : State) (id : Nat) : List Nat → Nat → Nat → Prop
  | [], p, q => p = q
  | i :: is, p, q =>
    usedSymbol (s.rom.huff id) i ∧ p + (s.rom.huff id).maxb ≤ s.limitBits ∧
    s.field p ((s.rom.huff id).len i) = (s.rom.huff id).code i ∧ codesAt s id is (p + (s.rom.huff id).len i) q

/-- No code of table `id` can be decoded at position `p`, and this is the error and its position: the table is empty, every
`BITS` 0 (log 9); the window crosses the limit; or no code covers the window (R133). -/
def codeFails (s : State) (id p : Nat) (code : BitVec 8) (pos : Nat) : Prop :=
  ((∀ b ∈ (s.rom.huff id).bits, b = 0) ∧ code = 3 ∧ pos = p) ∨
  ((∃ b ∈ (s.rom.huff id).bits, b ≠ 0) ∧ s.limitBits < p + (s.rom.huff id).maxb ∧ code = 7 ∧ pos = max p s.limitBits) ∨
  ((∃ b ∈ (s.rom.huff id).bits, b ≠ 0) ∧ p + (s.rom.huff id).maxb ≤ s.limitBits ∧
    (∀ i, usedSymbol (s.rom.huff id) i → ¬covers (s.rom.huff id) i (s.field p (s.rom.huff id).maxb)) ∧ code = 4 ∧ pos = p)

/-- Where the first of these fields, one after the other from position `p`, starts that crosses the limit; a field of no
bits never does (R110 to R112). -/
def failingField (limit : Nat) : List Nat → Nat → Nat
  | [], p => p
  | n :: ns, p => if n ≠ 0 ∧ limit < p + n then p else failingField limit ns (p + n)

/-- A command of `s` reads fields of these widths from the cursor, and one of them needs a bit at or beyond the limit: `t`
reports `OVERRUN` at the first bit that cannot be read (R110, R271), and the cursor stands at the start of that field (R112,
R276). -/
def overruns (s t : State) (fields : List Nat) : Prop :=
  reports s t 7 (max (cursor s) s.limitBits) ∧ cursor t = failingField s.limitBits fields (cursor s)

/-- The fields of a frame header, the sync field first (R87). -/
def headerFields (c : Config) : List Nat := [8, c.sridBits, c.ccidBits, c.flenBits, c.fstatBits]

/-- The fields of a gradient description of this mode (R87). -/
def gradientFields (c : Config) (mode : Nat) : List Nat :=
  2 :: (if mode = 0 then [c.gsu0Bits, c.geu0Bits, c.gsvBits, c.gevBits] else [c.gsu1Bits, c.gsvBits]) ++ [c.gbndBits]

/-! ### Channels -/

/-- The other channel slot. -/
def other : Chan → Chan
  | .c0 => .c1
  | .c1 => .c0

/-- `s` with this channel slot replaced. -/
def withChan (s : State) (c : Chan) (x : Channel) : State :=
  match c with
  | .c0 => { s with ch0 := x }
  | .c1 => { s with ch1 := x }

/-- `t` differs from `s` in the flags, the error registers, the model's count of unspecified values, the cursor and
channel slot `c` only. -/
def onlyChannel (s t : State) (c : Chan) : Prop :=
  t = { s with
    status := t.status, errPos := t.errPos, errCmd := t.errCmd, freeCtr := t.freeCtr, brPos := t.brPos
    ch0 := t.ch0, ch1 := t.ch1 } ∧
  t.chan (other c) = s.chan (other c)

/-- Line `n` lies in unit `i` (R190). -/
def inUnit (c : Config) (i n : Nat) : Prop := c.isp i ≤ n ∧ n < c.isp i + c.nsps i

/-- Width of a plain sample at precision `p`: `WL_ROM` = {0, 2, 3, …, 16} (R194). -/
def sampleWidth (p : Nat) : Nat := if p = 0 then 0 else p + 1

/-! ### The coarse and the fine spectrum -/

/-- `PREC[c][i]` as a number. -/
def precOf (s : State) (c : Chan) (i : Nat) : Nat := (Units.int (s.chan c).prec i).toNat

/-- `PRECF[c][i]` as a number; 0 when it is not positive. -/
def fineOf (s : State) (c : Chan) (i : Nat) : Nat := (Units.int (s.chan c).precf i).toNat

/-- The fields of a unit of `n` lines at precision `p`: joint codes, or a plain sample a line (R192 to R194). -/
def coarseFields (p n : Nat) : List Nat :=
  if p = 1 then if n = 2 then [3] else List.replicate (n / 4) 7 else List.replicate n (sampleWidth p)

/-- Bits a unit of `n` lines at precision `p` takes in the coarse spectrum (R196). -/
def coarseBits (p n : Nat) : Nat := if p = 1 then if n = 2 then 3 else 7 * (n / 4) else n * sampleWidth p

/-- Bits unit `i` takes in the coarse spectrum (R196). -/
def specBits (s : State) (c : Chan) (i : Nat) : Nat := coarseBits (precOf s c i) (s.rom.nsps i)

/-- Bits unit `i` takes in the fine spectrum (R196). -/
def fineBits (s : State) (c : Chan) (i : Nat) : Nat := s.rom.nsps i * sampleWidth (fineOf s c i)

/-- Bits units 0 to k − 1 take together. -/
def bitsBefore (f : Nat → Nat) (k : Nat) : Nat := ((List.range k).map f).sum

/-- Nibble `j` of a joint entry of `m` nibbles, the first the most significant, less 1 (R92, R192, R193). -/
def nibbleValue (m e j : Nat) : Int := ((e / 4 ^ (m - 1 - j)) % 4 : Nat) - 1

/-- The value of line `j` of a unit of `n` lines at precision `p` that starts at position `a` of the stream; `none` for an
`INVALID` joint code (R191 to R194). -/
def coarseValue (s : State) (p n a j : Nat) : Option Int :=
  if p = 1 then
    if n = 2 then (s.rom.joint2 (s.field a 3)).map (nibbleValue 2 · j)
    else (s.rom.joint4 (s.field (a + 7 * (j / 4)) 7)).map (nibbleValue 4 · (j % 4))
  else some (signed (sampleWidth p) (s.field (a + j * sampleWidth p) (sampleWidth p)))

/-- Where unit `i` starts in the coarse spectrum at the cursor. -/
def specStart (s : State) (c : Chan) (i : Nat) : Nat := cursor s + bitsBefore (specBits s c) i

/-- The value the coarse spectrum at the cursor gives line `j` of unit `i`. -/
def specValue (s : State) (c : Chan) (i j : Nat) : Option Int :=
  coarseValue s (precOf s c i) (s.rom.nsps i) (specStart s c i) j

/-- Where the joint code of line `j` of unit `i` ends (R192, R193). -/
def jointEnd (s : State) (c : Chan) (i j : Nat) : Nat :=
  specStart s c i + if s.rom.nsps i = 2 then 3 else 7 * (j / 4 + 1)

/-- `PREC[c][i]` is in 0..15 (R191). -/
def precInRange (s : State) (c : Chan) (i : Nat) : Prop :=
  0 ≤ Units.int (s.chan c).prec i ∧ Units.int (s.chan c).prec i ≤ 15

/-- The units below `k` have precisions in range and no `INVALID` joint code. -/
def specDecodes (s : State) (c : Chan) (k : Nat) : Prop :=
  ∀ i, i < k → precInRange s c i ∧ ∀ j, j < s.rom.nsps i → specValue s c i j ≠ none

/-- The value the fine spectrum gives line `j` of unit `i` (R195). -/
def fineValue (s : State) (c : Chan) (i j : Nat) : Int :=
  let f := fineOf s c i
  if 0 < f then
    signed (sampleWidth f) (s.field (cursor s + bitsBefore (fineBits s c) i + j * sampleWidth f) (sampleWidth f))
  else 0

/-! ### Binary32 -/

/-- A finite value. -/
def finite (w : Word) : Prop := fpExp w ≠ 255

/-- `r` is the binary32 value nearest to the real number x·2^−k·2^−149, ties to even; beyond the largest finite value by
half a unit in its last place or more, an infinity (R10). -/
def nearest (x : Int) (k : Nat) (r : Word) : Prop :=
  if |x| < (2 ^ 277 - 2 ^ 252) * 2 ^ k then
    finite r ∧ ∀ w, finite w →
      |fpInt r * 2 ^ k - x| ≤ |fpInt w * 2 ^ k - x| ∧
      (|fpInt r * 2 ^ k - x| = |fpInt w * 2 ^ k - x| → fpInt w ≠ fpInt r → r.getLsbD 0 = false)
  else r = if x < 0 then 0xFF800000 else 0x7F800000

/-- An `I16` sample as 16 bits (R250, R252). -/
def i16Bits (v : Word) : BitVec 16 := BitVec.ofInt 16 (fpToI16 v)

/-! ### Frames -/

/-- The channel slot with number `k`. -/
def slot (k : Nat) : Chan := if k = 0 then .c0 else .c1

/-- The local index with number `k`. -/
def localIndex (k : Nat) : LocalCh := if k = 0 then .l0 else .l1

/-- `decode.ch c, l` (R85). -/
def channelCommands (c : Chan) (l : LocalCh) : List Instr :=
  [.sfDecode c l, .pmaskBuild c, .precisionCalc c, .specDecode c, .specFineDecode c, .dequant c, .scale c, .imdct c]

/-- The commands of sub-block `b`, ended by `br.align` (R255, R257). -/
def blockCommands (chb b : Nat) : List Instr :=
  [.parseBand, .parseGradient, .gradientBuild] ++
    (List.range chb).flatMap (fun l => channelCommands (slot (b * chb + l)) (localIndex l)) ++ [.brAlign]

/-- These commands one after the other take `s` to `t`, each of them ending without an error. -/
def runsTo : List Instr → State → State → Prop
  | [], s, t => s = t
  | i :: is, s, t => ∃ u, exec i s = .next u ∧ u.status.err = false ∧ runsTo is u t

/-- Where the sub-block's channel data starts, after the band and gradient fields at `p` (R87). -/
def gradientEnd (s : State) (p : Nat) : Nat :=
  let g := p + s.rom.bandBits + s.rom.bandFlagBits
  g + 2 + (if s.field g 2 = 0 then s.rom.gsu0Bits + s.rom.geu0Bits + s.rom.gsvBits + s.rom.gevBits
    else s.rom.gsu1Bits + s.rom.gsvBits) + s.rom.gbndBits

/-- `GSU`, `GEU`, `GSV`, `GEV` of the sub-block at `p` (R248, R249). -/
def gradientRead (s : State) (p : Nat) : Nat × Nat × Nat × Nat :=
  let g := p + s.rom.bandBits + s.rom.bandFlagBits
  let f := g + 2
  if s.field g 2 = 0 then
    (s.field f s.rom.gsu0Bits, s.field (f + s.rom.gsu0Bits) s.rom.geu0Bits + s.rom.geu0Offset,
      s.field (f + s.rom.gsu0Bits + s.rom.geu0Bits) s.rom.gsvBits,
      s.field (f + s.rom.gsu0Bits + s.rom.geu0Bits + s.rom.gsvBits) s.rom.gevBits)
  else (s.field f s.rom.gsu1Bits, s.rom.gradM1EndUnit, s.field (f + s.rom.gsu1Bits) s.rom.gsvBits, 31)

/-- The curve `GRADIENT_BUILD` can compute from these values (R151, R152). -/
def gradientFits (c : Config) (g : Nat × Nat × Nat × Nat) : Prop :=
  g.2.1 ≤ 34 ∧ (g.1 < g.2.1 → g.2.2.2 ≠ g.2.2.1 → g.2.1 - g.1 - 1 < c.curveSpans)

/-- Entry `i` of that curve: −GSV below GEU and −GEV from it on, less the interpolation term from GSU to GEU where
GEV ≠ GSV (R151, R152). -/
def gradientAt (c : Config) (g : Nat × Nat × Nat × Nat) (i : Nat) : Int :=
  (if i < g.2.1 then -(g.2.2.1 : Int) else -(g.2.2.2 : Int)) -
    if g.1 ≤ i ∧ i < g.2.1 ∧ g.2.2.2 ≠ g.2.2.1 then
      c.curve (g.2.1 - g.1 - 1) (i - g.1) * ((g.2.2.2 : Int) - g.2.2.1 - 1) / 256 + 1 else 0

/-- The mask of unit `i` for these factors: a rise of more than 1 into it and a fall of more than 1 out of it, each less 1
and at most 5, among the units below `nqu` (R154). -/
def maskAt (nqu : Nat) (f : Nat → Int) (i : Nat) : Int :=
  (if 1 ≤ i ∧ i < nqu ∧ 1 < f i - f (i - 1) then min (f i - f (i - 1) - 1) 5 else 0) +
  if i + 1 < nqu ∧ 1 < f i - f (i + 1) then min (f i - f (i + 1) - 1) 5 else 0

/-- The whole precision of unit `i` from the sum of factor, gradient and, in modes 1 to 3, mask: divided by the mode's
divisor when positive, floored at 1, plus 1 below the boundary (R156). -/
def precisionFrom (gmode gbnd : Nat) (sum : Int) (i : Nat) : Int :=
  max (if sum ≤ 0 ∨ gmode = 0 then sum else if gmode = 1 then sum / 2
      else if gmode = 2 then 3 * sum / 8 else sum / 4) 1 +
    if i < gbnd then 1 else 0

/-- From position `p` the stream holds readable scale factors `f` of `nqu` units for a channel of local index `l`; they end
at `q`. `ref` are the factors of the channel before it (R88, R170 to R174). -/
def factorsAt (s : State) (l nqu : Nat) (ref : Nat → Int) (p : Nat) (f : Nat → Int) (q : Nat) : Prop :=
  let sel := s.field (p + 1) 2
  let off := s.field (p + 3) s.rom.sfOffsetBits
  let w := p + 3 + s.rom.sfOffsetBits
  let wt := s.field w 3
  if s.field p 1 = 0 then
    w + 3 ≤ s.limitBits ∧
    if nqu = 0 then q = w + 3
    else w + 3 + (sel + 3) ≤ s.limitBits ∧ ∃ syms, syms.length + 1 = nqu ∧
      codesAt s (sel + 3) syms (w + 3 + (sel + 3)) q ∧
      ∀ i, i < nqu → f i = ((s.field (w + 3) (sel + 3) + (syms.take i).sum) % 2 ^ (sel + 3) : Nat) + (off : Int) -
        s.rom.weight wt i
  else if l = 0 then
    let bl := sel + s.rom.sfBBase
    if 4 < bl then
      q = p + 3 + 5 * nqu ∧ q ≤ s.limitBits ∧ ∀ i, i < nqu → f i = s.field (p + 3 + 5 * i) 5
    else
      q = w + 3 + bl * nqu ∧ q ≤ s.limitBits ∧
      ∀ i, i < nqu → f i = (s.field (w + 3 + bl * i) bl : Int) - s.rom.weight wt i + off
  else
    p + 3 ≤ s.limitBits ∧ ∃ syms, syms.length = nqu ∧ codesAt s (7 + (sel + 2)) syms (p + 3) q ∧
      ∀ i, i < nqu → f i = ref i + signed (sel + 2) (syms.getD i 0)

/-- From position `p` the stream holds the readable data of one channel of `nqu` units: factors `f` of at most 31, precisions
of at most 30, valid joint codes; it ends at `q` (R88, R89, R254). -/
def channelAt (s : State) (l nqu gmode gbnd : Nat) (grad ref : Nat → Int) (p : Nat) (f : Nat → Int) (q : Nat) : Prop :=
  let prec (i : Nat) := precisionFrom gmode gbnd (f i + grad i + if gmode = 0 then 0 else maskAt nqu f i) i
  let coarse (i : Nat) := coarseBits (min (prec i) 15).toNat (s.rom.nsps i)
  let fine (i : Nat) := s.rom.nsps i * sampleWidth (prec i - 15).toNat
  ∃ r, factorsAt s l nqu ref p f r ∧ (∀ i, i < nqu → f i ≤ 31 ∧ prec i ≤ 30) ∧
    (∀ i j, i < nqu → j < s.rom.nsps i →
      coarseValue s (min (prec i) 15).toNat (s.rom.nsps i) (r + bitsBefore coarse i) j ≠ none) ∧
    q = r + bitsBefore coarse nqu + bitsBefore fine nqu ∧ q ≤ s.limitBits

/-- From position `p` the stream holds the data of `k` such channels, of local indices `l` and up; it ends at `q`. -/
def channelsAt (s : State) (nqu gmode gbnd : Nat) (grad : Nat → Int) : Nat → Nat → (Nat → Int) → Nat → Nat → Prop
  | 0, _, _, p, q => p = q
  | k + 1, l, ref, p, q =>
    ∃ f r, channelAt s l nqu gmode gbnd grad ref p f r ∧ channelsAt s nqu gmode gbnd grad k (l + 1) f r q

/-- From position `p` the stream holds readable sub-blocks of these unit counts, each of `chb` channels and aligned to a
byte; they end at `q` (R87, R257). -/
def blocksAt (s : State) (chb : Nat) : List Nat → Nat → Nat → Prop
  | [], p, q => p = q
  | nqu :: ns, p, q =>
    let start := gradientEnd s p
    let g := gradientRead s p
    start ≤ s.limitBits ∧ s.rom.nquRom[s.field p s.rom.bandBits + s.rom.bandOffset]? = some nqu ∧
    gradientFits s.rom g ∧
    ∃ r, channelsAt s nqu (s.field (p + s.rom.bandBits + s.rom.bandFlagBits) 2)
        (s.field (start - s.rom.gbndBits) s.rom.gbndBits) (gradientAt s.rom g) chb 0 (fun _ => 0) start r ∧
      blocksAt s chb ns (8 * ((r + 7) / 8)) q

end Sys2Proof.Claims

open Sys2Proof Sys2Proof.Machine Sys2Proof.Claims

/-! ## Command words (R80 to R83) -/

/-- Decoding the word, or the four bytes, of any legal command gives the command back, every operand at every value the
encoding admits, bytes after the word left over; and a word that decodes to a command is that command's only word (R80 to
R83, R64). -/
def Obligations.DecodingAndEncodingAreInverse : Prop :=
  (∀ (i : Instr) (rest : List Byte), i.wellFormed = true →
    decodeWord (encode i) = some i ∧ decodeBytes (wordBytes (encode i) ++ rest) = some (i, rest)) ∧
  ∀ (w : Word) (i : Instr), decodeWord w = some i → i.wellFormed = true ∧ encode i = w

/-- The illegal words: those of no row, `HUFF_DECODE` with T in 13..15, `SF_DECODE` with LCH = 1 and CH = 0 (R83). -/
def Obligations.TheIllegalWordsAreThoseOfR83 : Prop :=
  ∀ w : Word, decodeWord w = none ↔
    (∀ r ∈ opcodeMap, w &&& r.mask ≠ r.matchBits) ∨
    (w &&& 0xFFF0FFFF = 0x20 ∧ 13 ≤ w.toNat / 2 ^ 16 % 16) ∨
    (w &&& 0xFFFFFCFF = 0x40 ∧ w.getLsbD 9 = true ∧ w.getLsbD 8 = false)

/-- Words written out from the table of R82, one of each format. -/
def Obligations.WordsOfTheOpcodeMapDecodeAsListed : Prop :=
  decodeWord 0x00000002 = some .decodeFrame ∧ decodeWord 0x00002010 = some (.brPeek 8) ∧
  decodeWord 0x0000FC11 = some (.brRead 63) ∧ decodeWord 0x000C0020 = some (.huffDecode 12) ∧
  decodeWord 0x000D0020 = none ∧ decodeWord 0x00000340 = some (.sfDecode .c1 .l1) ∧
  decodeWord 0x00000240 = none ∧ decodeWord 0x00000170 = some (.imdct .c1) ∧ decodeWord 0x00000178 = none ∧
  decodeWord 0x00100000 = none

/-! ## Acceptance, the flags, errors (R23, R25, R240, R270 to R280) -/

/-- A host write of a legal word to `CMD`, while idle and not fatal, runs exactly the command it decodes to, on the state
after acceptance (R23, R240). -/
def Obligations.StepRunsTheDecodedCommand : Prop :=
  ∀ (s : State) (w : Word) (rest : List HostAction) (i : Instr),
    writesCmd s w rest → s.status.busy = false → s.status.fatal = false → decodeWord w = some i →
    step s = exec i (accepted s w rest)

/-- An illegal word ends at once with `ILLEGAL_CMD`, before `INIT` too: nothing but `CMD_LAST`, the flags and the error
registers changes (R83, R240, R271, R272). -/
def Obligations.AnIllegalWordReportsIllegalCmd : Prop :=
  ∀ (s : State) (w : Word) (rest : List HostAction),
    writesCmd s w rest → s.status.busy = false → s.status.fatal = false → decodeWord w = none →
    step s = .next { s with
      hostQueue := rest
      cmdLast := w
      status := { s.status with done := true, err := true, errCode := 8, fatal := true, busy := false }
      errPos := s.brPos
      errCmd := w }

/-- Control advances only when the host acts: with no action pending the block stays as it is; a write to `CMD` after a
fatal error is ignored, and one while busy breaks a host duty and has no step, by the model's reading (log 13) (R20, R23,
R72). -/
def Obligations.TheBlockActsOnAcceptedCommandsOnly : Prop :=
  (∀ s : State, s.hostQueue = [] → step s = .next s) ∧
  ∀ (s : State) (w : Word) (rest : List HostAction), writesCmd s w rest →
    (s.status.busy = false → s.status.fatal = true → step s = .next { s with hostQueue := rest }) ∧
    (s.status.busy = true → step s = .refused .hostDutyViolation)

/-- The fatal latch (R275): while `FATAL = 1` every write to `CMD` is ignored (in a busy state, which no run reaches, it has
no step, log 13), writing 1 to `STATUS.ERR` does not clear it, `ERR_CODE`, `ERR_POS` and `ERR_CMD` keep their values whatever
the host does, and only reset clears `FATAL`. -/
def Obligations.FatalIsLatchedUntilReset : Prop :=
  ∀ (s : State) (a : HostAction) (rest : List HostAction), s.status.fatal = true → s.hostQueue = a :: rest →
    (∀ w, a = .write .w32 0x0000C w → s.status.busy = false → step s = .next { s with hostQueue := rest }) ∧
    ∀ t, step s = .next t →
      (a = .reset → t.status.fatal = false) ∧
      (a ≠ .reset → t.status.fatal = true ∧ t.status.err = s.status.err ∧ t.status.errCode = s.status.errCode ∧
        t.errPos = s.errPos ∧ t.errCmd = s.errCmd) ∧
      (∀ w, a = .write .w32 0x0000C w → t = { s with hostQueue := rest })

/-- Every command but `NOP` and `INIT` reports `NOT_INIT` before `INIT`, at the cursor, and leaves alone `CMD_LAST`, `CTRL`,
`ARG`, `IN_LEN`, the lookup tables, both overlap buffers and every byte of the RAMs, `DECODE_FRAME` of `OUT_BUF` those that no
frame can write (which these are is DEDUCED, log 25) (R240, R276). -/
def Obligations.CommandsBeforeInitReportNotInit : Prop :=
  ∀ (i : Instr) (s : State), i.wellFormed = true → i ≠ .nop → i ≠ .init → s.status.initDone = false →
    ∃ t, exec i s = .next t ∧ reports s t 9 (cursor s) ∧
      t.cmdLast = s.cmdLast ∧ t.ctrl = s.ctrl ∧ t.arg = s.arg ∧ t.inLen = s.inLen ∧ t.hlut = s.hlut ∧
      t.ch0.prev = s.ch0.prev ∧ t.ch1.prev = s.ch1.prev ∧ (∀ a, t.inByte a = s.inByte a) ∧
      ∀ a, i ≠ .decodeFrame ∨ beyondPcm s a → t.outByte a = s.outByte a

/-- Every command ends, not busy and done, in one of two ways: without an error, the error flags and registers as they
were, or with exactly one of the errors 1 to 12, recorded with the command that raised it, and fatal unless it is `SYNC`
(R240, R270 to R274, R318). -/
def Obligations.EveryCommandEndsInOneOfTwoWays : Prop :=
  ∀ (i : Instr) (s : State), ∃ t, exec i s = .next t ∧ t.status.busy = false ∧ t.status.done = true ∧
    ((t.status.err = s.status.err ∧ t.status.errCode = s.status.errCode ∧ t.status.fatal = s.status.fatal ∧
        t.errPos = s.errPos ∧ t.errCmd = s.errCmd) ∨
     (t.status.err = true ∧ 1 ≤ t.status.errCode.toNat ∧ t.status.errCode.toNat ≤ 12 ∧ t.errCmd = s.cmdLast ∧
        t.status.fatal = (s.status.fatal || t.status.errCode != 1) ∧ t.status.initDone = s.status.initDone))

/-- The codes each command can report, as R270 lists them under "raised by"; `NOT_INIT` is for all but `NOP` and
`INIT`. -/
def Claims.errorsOf : Instr → List (BitVec 8)
  | .nop => []
  | .init => []
  | .decodeFrame => [1, 3, 4, 5, 6, 7, 9, 10, 11, 12]
  | .brPeek _ => [2, 7, 9]
  | .brRead _ => [2, 7, 9]
  | .brReadSigned _ => [2, 7, 9]
  | .brReadOb _ => [2, 7, 9]
  | .brAlign => [2, 9]
  | .huffDecode _ => [3, 4, 7, 9]
  | .parseHeader => [1, 6, 7, 9]
  | .parseBand => [6, 7, 9]
  | .parseGradient => [7, 9]
  | .gradientBuild => [6, 9]
  | .pmaskBuild _ => [6, 9]
  | .precisionCalc _ => [6, 9]
  | .sfDecode _ _ => [3, 4, 6, 7, 9]
  | .specDecode _ => [5, 6, 7, 9]
  | .specFineDecode _ => [6, 7, 9]
  | .dequant _ => [6, 9]
  | .scale _ => [6, 9]
  | .imdct _ => [9, 12]
  | .pcmOut => [6, 9, 11, 12]

/-- No command reports an error that R270 does not list for it, whatever the bitstream and the configuration. -/
def Obligations.EachCommandReportsOnlyTheErrorsListedForIt : Prop :=
  ∀ (i : Instr) (s t : State), i.wellFormed = true → s.status.err = false → exec i s = .next t →
    t.status.err = true → t.status.errCode ∈ Claims.errorsOf i

/-- The interrupt: high after every command exactly when enabled; an idle host lowers it by writing 1 to `DONE` and `ERR`,
unless the error was fatal, and by clearing `IRQ_EN` in every case (R280, R25, R24). -/
def Obligations.TheInterruptFollowsDoneAndErr : Prop :=
  (∀ (i : Instr) (s t : State), exec i s = .next t → t.irq = s.ctrl.irqEn) ∧
  (∀ (s : State) (rest : List HostAction), s.status.busy = false →
    s.hostQueue = .write .w32 0x00008 0x00000006 :: rest →
    ∃ t, step s = .next t ∧ t.irq = (s.ctrl.irqEn && s.status.err && s.status.fatal)) ∧
  ∀ (s : State) (w : Word) (rest : List HostAction), s.status.busy = false → w.getLsbD 0 = false →
    s.hostQueue = .write .w32 0x00004 w :: rest → ∃ t, step s = .next t ∧ t.irq = false

/-! ## Reset and the host's view (R21 to R67, R300) -/

/-- Reset: every register and array at the value of R300, the RAMs unwritten, the configuration kept. What R300 leaves
unspecified, the RAM contents and `WORK_PREV`, is a free value (log 5). -/
def Obligations.ResetSetsEveryRegister : Prop :=
  ∀ (s : State) (rest : List HostAction), s.hostQueue = .reset :: rest →
    ∃ t, step s = .next t ∧ t.cfg = s.cfg ∧ t.hostQueue = rest ∧
      t.ctrl = ⟨false, false⟩ ∧ t.status = ⟨false, false, false, false, false, 0⟩ ∧ t.cmdLast = 0 ∧ t.arg = 0 ∧
      t.result = 0 ∧ t.brPos = 0 ∧ t.inLen = 0 ∧ t.outPtr = 0 ∧ t.bytesConsumed = 0 ∧ t.errPos = 0 ∧ t.errCmd = 0 ∧
      t.hdr = ⟨0, 0, 0⟩ ∧ t.flen = 0 ∧ t.geom = ⟨0, 0, 0, 0⟩ ∧ t.gparam0 = ⟨0, 0, 0, 0⟩ ∧ t.gparam1 = ⟨0, 0⟩ ∧
      t.irq = false ∧ (∀ i < 34, t.gradient.getD i 1 = 0) ∧
      (∀ c i, i < 34 → (t.chan c).sf.getD i 1 = 0 ∧ (t.chan c).prec.getD i 1 = 0 ∧ (t.chan c).precf.getD i 1 = 0 ∧
        (t.chan c).pmask.getD i 1 = 0) ∧
      (∀ c n, n < 256 → (t.chan c).qspec.getD n 1 = 0 ∧ (t.chan c).qspecf.getD n 1 = 0 ∧ (t.chan c).spec.getD n 1 = 0 ∧
        (t.chan c).pcm.getD n 1 = 0 ∧ (t.chan c).prev.getD n 1 = 0) ∧
      (∀ c, (t.chan c).sfcfg = ⟨0, 0, 0, 0⟩ ∧ (t.chan c).mbits = 0) ∧
      (∀ id, id ≤ 12 → ∀ w, lutLookup (t.hlut.getD id []) w = none) ∧ t.inBuf = [] ∧ t.outBuf = []

/-- What the words of `REG` read as, by offset (R22 to R39): fields in place, reserved bits 0. -/
def Claims.regWords (s : State) : List (Nat × Nat) :=
  [(0x000, 0x4C444143), (0x004, s.ctrl.irqEn.toNat + 2 * s.ctrl.outFmt.toNat),
   (0x008, s.status.busy.toNat + 2 * s.status.done.toNat + 4 * s.status.err.toNat + 8 * s.status.fatal.toNat +
      16 * s.status.initDone.toNat + 2 ^ 8 * s.status.errCode.toNat),
   (0x00C, s.cmdLast.toNat), (0x010, s.arg.toNat), (0x014, s.result.toNat), (0x018, s.brPos.toNat)] ++
  [(0x01C, s.inLen.toNat), (0x020, 4 * s.outPtr.toNat), (0x024, s.bytesConsumed.toNat), (0x028, s.errPos.toNat),
   (0x02C, s.errCmd.toNat),
   (0x030, s.hdr.srid.toNat + 2 ^ 8 * s.hdr.ccid.toNat + 2 ^ 16 * s.hdr.fstat.toNat), (0x034, s.flen.toNat),
   (0x038, s.geom.nch.toNat + 2 ^ 8 * s.geom.fbits.toNat + 2 ^ 16 * s.geom.nbands.toNat + 2 ^ 24 * s.geom.nqu.toNat)] ++
  [(0x03C, s.gparam0.gmode.toNat + 2 ^ 8 * s.gparam0.gsu.toNat + 2 ^ 16 * s.gparam0.geu.toNat +
      2 ^ 24 * s.gparam0.gbnd.toNat),
   (0x040, s.gparam1.gsv.toNat + 2 ^ 8 * s.gparam1.gev.toNat)]

/-- The base of channel window `c` (R40). -/
def Claims.windowBase (c : Chan) : Nat :=
  match c with
  | .c0 => 0x2000
  | .c1 => 0x4000

/-- The unit arrays of a channel window by base (R41 to R44). -/
def Claims.unitArrays (x : Channel) : List (Nat × Units) :=
  [(0x0000, x.sf), (0x0100, x.prec), (0x0200, x.precf), (0x0300, x.pmask)]

/-- The line arrays of a channel window by base (R45 to R49). -/
def Claims.lineArrays (x : Channel) : List (Nat × Lines) :=
  [(0x0400, x.qspec), (0x0800, x.qspecf), (0x0C00, x.spec), (0x1000, x.pcm), (0x1400, x.prev)]

/-- Offset `o` is an element of an array the host may write: `GRADIENT` and every channel array but `PREV`. -/
def Claims.inWritableArray (o : Nat) : Prop :=
  (∃ i, i < 34 ∧ o = 0x100 + 4 * i) ∨
  (∃ c base i, base ∈ [0x0000, 0x0100, 0x0200, 0x0300] ∧ i < 34 ∧ o = Claims.windowBase c + base + 4 * i) ∨
  (∃ c base n, base ∈ [0x0400, 0x0800, 0x0C00, 0x1000] ∧ n < 256 ∧ o = Claims.windowBase c + base + 4 * n)

/-- Offset `o` is an element of `PREV` (R49). -/
def Claims.inPrev (o : Nat) : Prop := ∃ c n, n < 256 ∧ o = Claims.windowBase c + 0x1400 + 4 * n

/-- Offset `o` of a word below the RAMs is in no list of R22 to R51: not a register of `REG`, 0x000 to 0x040, not an array
element, not `SFCFG` or `MBITS`. -/
def Claims.unlisted (o : Nat) : Prop :=
  o < 0x10000 ∧ o % 4 = 0 ∧ 0x040 < o ∧ ¬Claims.inWritableArray o ∧ ¬Claims.inPrev o ∧
  ∀ c, o ≠ Claims.windowBase c + 0x1800 ∧ o ≠ Claims.windowBase c + 0x1804

/-- A read of a word of `REG`, of an array element at `base + 4·index` of its window, or of `SFCFG` or `MBITS` returns it,
and of any other aligned offset below the RAMs 0; it has no side effect (R21 to R51, R60, R67). -/
def Obligations.ReadsReturnTheListedWords : Prop :=
  ∀ (s : State) (rest : List HostAction) (o : Nat) (v : Word), o < 2 ^ 18 →
    s.hostQueue = .read .w32 (BitVec.ofNat 18 o) :: rest → s.status.busy = false →
    ((∃ k, (o, k) ∈ Claims.regWords s ∧ v = BitVec.ofNat 32 k) ∨
     (∃ i, i < 34 ∧ o = 0x100 + 4 * i ∧ s.gradient[i]? = some v) ∨
     (∃ c base a i, (base, a) ∈ Claims.unitArrays (s.chan c) ∧ i < 34 ∧ o = Claims.windowBase c + base + 4 * i ∧
        a[i]? = some v) ∨
     (∃ c base a n, (base, a) ∈ Claims.lineArrays (s.chan c) ∧ n < 256 ∧ o = Claims.windowBase c + base + 4 * n ∧
        a[n]? = some v) ∨
     (∃ c, o = Claims.windowBase c + 0x1800 ∧ v = BitVec.ofNat 32 ((s.chan c).sfcfg.sfmode.toNat +
        2 ^ 8 * (s.chan c).sfcfg.sfblen.toNat + 2 ^ 16 * (s.chan c).sfcfg.sfoff.toNat +
        2 ^ 24 * (s.chan c).sfcfg.sfwt.toNat)) ∨
     (∃ c, o = Claims.windowBase c + 0x1804 ∧ v = BitVec.ofNat 32 (s.chan c).mbits.toNat) ∨
     (Claims.unlisted o ∧ v = 0)) →
    step s = .next { s with hostQueue := rest, hostData := v }

/-- The bits that the words of `REG`, `SFCFG` and `MBITS` store (R24 to R36, R50, R51), but for `STATUS` and `IN_LEN`. -/
def Claims.storedBits : List (Nat × Word) :=
  [(0x004, 0x3), (0x010, 0xFFFFFFFF), (0x018, 0xFFFFFFFF), (0x020, 0xFFFFFFFC), (0x030, 0xFFFFFF), (0x034, 0xFFFF),
   (0x038, 0xFFFF0F03), (0x03C, 0xFFFFFFFF), (0x040, 0xFFFF)] ++
  [(0x3800, 0x07FF0F01), (0x3804, 0xF), (0x5800, 0x07FF0F01), (0x5804, 0xF)]

/-- `t` is `s` but for the word at offset `o`: a register's own fields, or one array element, which is then `w`. -/
def Claims.storesOnly (s t : State) (o : Nat) (w : Word) : Prop :=
  (o = 0x004 → t = { s with ctrl := t.ctrl }) ∧ (o = 0x010 → t = { s with arg := t.arg }) ∧
  (o = 0x018 → t = { s with brPos := t.brPos }) ∧ (o = 0x01C → t = { s with inLen := t.inLen }) ∧
  (o = 0x020 → t = { s with outPtr := t.outPtr }) ∧ (o = 0x030 → t = { s with hdr := t.hdr }) ∧
  (o = 0x034 → t = { s with flen := t.flen }) ∧ (o = 0x038 → t = { s with geom := t.geom }) ∧
  (o = 0x03C → t = { s with gparam0 := t.gparam0 }) ∧ (o = 0x040 → t = { s with gparam1 := t.gparam1 }) ∧
  (∀ i, i < 34 → o = 0x100 + 4 * i → t = { s with gradient := s.gradient.setIfInBounds i w }) ∧
  ∀ c,
    let x := s.chan c
    let b := Claims.windowBase c
    (∀ i, i < 34 →
      (o = b + 0x0000 + 4 * i → t = withChan s c { x with sf := x.sf.setIfInBounds i w }) ∧
      (o = b + 0x0100 + 4 * i → t = withChan s c { x with prec := x.prec.setIfInBounds i w }) ∧
      (o = b + 0x0200 + 4 * i → t = withChan s c { x with precf := x.precf.setIfInBounds i w }) ∧
      (o = b + 0x0300 + 4 * i → t = withChan s c { x with pmask := x.pmask.setIfInBounds i w })) ∧
    (∀ n, n < 256 →
      (o = b + 0x0400 + 4 * n → t = withChan s c { x with qspec := x.qspec.setIfInBounds n w }) ∧
      (o = b + 0x0800 + 4 * n → t = withChan s c { x with qspecf := x.qspecf.setIfInBounds n w }) ∧
      (o = b + 0x0C00 + 4 * n → t = withChan s c { x with spec := x.spec.setIfInBounds n w }) ∧
      (o = b + 0x1000 + 4 * n → t = withChan s c { x with pcm := x.pcm.setIfInBounds n w })) ∧
    (o = b + 0x1800 → t = withChan s c { x with sfcfg := (t.chan c).sfcfg }) ∧
    (o = b + 0x1804 → t = withChan s c { x with mbits := (t.chan c).mbits })

/-- A write to a listed word changes that word alone, and the word reads back truncated to its fields, an array element
whole, `IN_LEN` capped at `IN_BUF_BYTES` (R21, R29, R36, R67). -/
def Obligations.WrittenWordsReadBackTruncatedToTheirFields : Prop :=
  ∀ (s : State) (rest : List HostAction) (o : Nat) (w v : Word), s.status.busy = false →
    s.hostQueue = .write .w32 (BitVec.ofNat 18 o) w :: rest →
    ((∃ m, (o, m) ∈ Claims.storedBits ∧ v = w &&& m) ∨ (Claims.inWritableArray o ∧ v = w) ∨
      (o = 0x01C ∧ v = if s.rom.inBufBytes < w.toNat then BitVec.ofNat 32 s.rom.inBufBytes else w)) →
    ∃ t, step s = .next t ∧ Claims.storesOnly { s with hostQueue := rest } t o w ∧
      ∀ rest', rest = .read .w32 (BitVec.ofNat 18 o) :: rest' →
        step t = .next { t with hostQueue := rest', hostData := v }

/-- A write to `STATUS` clears `DONE` and, while `FATAL = 0`, `ERR` where it has a 1, and changes no other bit; while busy
it is ignored, by the model's reading (log 13). An idle block ignores writes to what the host may only read, `PREV` among it,
and to every aligned offset below the RAMs that is in no list (R21, R22, R25, R27, R37 to R39, R49, R60, R70, R275). -/
def Obligations.StatusIsWriteOneToClearAndReadOnlyWordsKeep : Prop :=
  ∀ (s : State) (rest : List HostAction) (o : Nat) (w : Word),
    s.hostQueue = .write .w32 (BitVec.ofNat 18 o) w :: rest →
    (o = 0x008 → step s = .next { s with
      hostQueue := rest
      status := if s.status.busy then s.status else { s.status with
        done := s.status.done && !w.getLsbD 1
        err := s.status.err && (s.status.fatal || !w.getLsbD 2) } }) ∧
    (s.status.busy = false →
      o ∈ [0x000, 0x014, 0x024, 0x028, 0x02C] ∨ Claims.inPrev o ∨ Claims.unlisted o →
      step s = .next { s with hostQueue := rest })

/-- The accesses that break a host duty have no step: in `REG` and `CHAN` a narrow or a misaligned one, in the RAMs a
misaligned one or one that ends beyond the RAM, and while busy a write to any offset but `STATUS` (log 13: elsewhere the
spec calls such a write ignored) (R66, R72). -/
def Obligations.AccessesThatBreakAHostDutyHaveNoStep : Prop :=
  ∀ (s : State) (rest : List HostAction) (a : HostAction) (width : AccessWidth) (o : BitVec 18) (w : Word) (n : Nat),
    s.hostQueue = a :: rest → (a = .read width o ∨ a = .write width o w) → n = widthBytes width →
    (o.toNat < 0x200 ∨ 0x2000 ≤ o.toNat ∧ o.toNat < 0x6000) ∧ (n ≠ 4 ∨ o.toNat % 4 ≠ 0) ∨
      0x10000 ≤ o.toNat ∧ o.toNat < 0x20000 ∧ (o.toNat % n ≠ 0 ∨ 0x10000 + s.rom.inBufBytes < o.toNat + n) ∨
      0x20000 ≤ o.toNat ∧ (o.toNat % n ≠ 0 ∨ 0x20000 + s.rom.outBufBytes < o.toNat + n) ∨
      a = .write width o w ∧ s.status.busy = true ∧ o ≠ 0x00008 →
    step s = .refused .hostDutyViolation

/-- The host reaches both RAMs with 8, 16 or 32 bits, aligned and within the RAM: a write stores the bytes of the data from
its address up and changes nothing else, a read returns the bytes there and changes nothing. The first byte is the least
significant (for the RAMs this is the model's reading, log 10); that a narrow access uses the low data bits, with zeros above
in a read, is the model's choice (log 24). A byte of `IN_BUF` is the 8 bits of the bitstream at 8 × its
offset, most significant first (R60, R63, R66, R67). -/
def Obligations.HostAccessesReachTheBytesOfTheRams : Prop :=
  ∀ (s : State) (rest : List HostAction) (width : AccessWidth) (n a : Nat) (w : Word), s.status.busy = false →
    n = widthBytes width → a % n = 0 →
    (a + n ≤ s.rom.inBufBytes →
      (s.hostQueue = .write width (BitVec.ofNat 18 (0x10000 + a)) w :: rest →
        ∃ t, step s = .next t ∧ t = { s with hostQueue := rest, inBuf := t.inBuf } ∧
          (∀ k, k < n → t.inByte (a + k) = w.extractLsb' (8 * k) 8 ∧
            ∀ j, j < 8 → inputBit t (8 * (a + k) + j) = w.getLsbD (8 * k + (7 - j))) ∧
          (∀ b, b < a ∨ a + n ≤ b → t.inByte b = s.inByte b) ∧
          (∀ p, p < 8 * a ∨ 8 * (a + n) ≤ p → inputBit t p = inputBit s p) ∧ ∀ b, t.outByte b = s.outByte b) ∧
      (s.hostQueue = .read width (BitVec.ofNat 18 (0x10000 + a)) :: rest →
        ∃ v, step s = .next { s with hostQueue := rest, hostData := v } ∧
          (∀ k, k < n → v.extractLsb' (8 * k) 8 = s.inByte (a + k)) ∧ ∀ j, 8 * n ≤ j → v.getLsbD j = false)) ∧
    (a + n ≤ s.rom.outBufBytes →
      (s.hostQueue = .write width (BitVec.ofNat 18 (0x20000 + a)) w :: rest →
        ∃ t, step s = .next t ∧ t = { s with hostQueue := rest, outBuf := t.outBuf } ∧
          (∀ k, k < n → t.outByte (a + k) = w.extractLsb' (8 * k) 8) ∧
          (∀ b, b < a ∨ a + n ≤ b → t.outByte b = s.outByte b) ∧ ∀ b, t.inByte b = s.inByte b) ∧
      (s.hostQueue = .read width (BitVec.ofNat 18 (0x20000 + a)) :: rest →
        ∃ v, step s = .next { s with hostQueue := rest, hostData := v } ∧
          (∀ k, k < n → v.extractLsb' (8 * k) 8 = s.outByte (a + k)) ∧ ∀ j, 8 * n ≤ j → v.getLsbD j = false))

/-! ## Control commands (R241 to R243) -/

/-- `NOP` does nothing but end (R241). -/
def Obligations.NopOnlyEnds : Prop := ∀ s : State, exec .nop s = .next (finished s)

/-- `INIT` builds every lookup table as R131 says, sets `INIT_DONE`, and touches nothing else; it runs before `INIT` too
(R131, R242). -/
def Obligations.InitBuildsTheLookupTables : Prop :=
  ∀ s : State, ∃ t, exec .init s = .next t ∧ lutsHold t ∧
    t = finished { s with hlut := t.hlut, status := { s.status with initDone := true } }

/-- `INIT` is idempotent, `HLUT` depends on `HUFF_ROM` alone, and the overlap state is not disturbed (R243). -/
def Obligations.InitIsIdempotent : Prop :=
  ∀ s t : State, exec .init s = .next t →
    exec .init t = .next t ∧ (t.chan .c0).prev = (s.chan .c0).prev ∧ (t.chan .c1).prev = (s.chan .c1).prev ∧
    ∀ s' t' : State, s'.rom.huffRom = s.rom.huffRom → exec .init s' = .next t' → t'.hlut = t.hlut

/-! ## The bit reader (R110 to R120) -/

/-- `BR_PEEK`, `BR_READ` and `BR_READ_OB` of a readable field return its bits most significant first, `BR_READ_SIGNED` the
same in two's complement; the reads advance the cursor by n, the peek does not; nothing else changes (R9, R63, R111 to R113,
R115 to R118). -/
def Obligations.BitReadsReturnTheFieldMostSignificantBitFirst : Prop :=
  ∀ (s : State) (n : Nat), s.status.initDone = true → n ≤ 32 → n = 0 ∨ cursor s + n ≤ s.limitBits →
    ∃ v, v < 2 ^ n ∧ (∀ j, j < n → v.testBit (n - 1 - j) = inputBit s (cursor s + j)) ∧
      exec (.brPeek n) s = .next (finished { s with result := BitVec.ofNat 32 v }) ∧
      exec (.brRead n) s =
        .next (finished { s with result := BitVec.ofNat 32 v, brPos := BitVec.ofNat 32 (cursor s + n) }) ∧
      exec (.brReadOb n) s =
        .next (finished { s with result := BitVec.ofNat 32 v, brPos := BitVec.ofNat 32 (cursor s + n) }) ∧
      exec (.brReadSigned n) s =
        .next (finished { s with
          result := BitVec.ofInt 32 (signed n v), brPos := BitVec.ofNat 32 (cursor s + n) })

/-- A width above 32 is `BAD_WIDTH`, before any bit is read; a field that crosses the limit is `OVERRUN` at the first bit
that cannot be read; the cursor stays in both (R110 to R112, R115 to R118, R271, R274). -/
def Obligations.BadWidthsAndOverrunsLeaveTheCursor : Prop :=
  ∀ (s : State) (n : Nat) (i : Instr), s.status.initDone = true →
    i ∈ [.brPeek n, .brRead n, .brReadSigned n, .brReadOb n] →
    (32 < n → ∃ t, exec i s = .next t ∧ reports s t 2 (cursor s) ∧ t.brPos = s.brPos) ∧
    (n ≤ 32 → 0 < n → s.limitBits < cursor s + n →
      ∃ t, exec i s = .next t ∧ reports s t 7 (max (cursor s) s.limitBits) ∧ t.brPos = s.brPos)

/-- `i` consumes n bits (R116 to R118). -/
def Claims.reads (i : Instr) (n : Nat) : Prop := i = .brRead n ∨ i = .brReadSigned n ∨ i = .brReadOb n

/-- A run of reads of these widths, each without an error. -/
def Claims.readsTo : List Nat → State → State → Prop
  | [], s, t => s = t
  | n :: ns, s, t =>
    ∃ i u, Claims.reads i n ∧ exec i s = .next u ∧ u.status.err = false ∧ Claims.readsTo ns u t

/-- A peek never moves the cursor, with an error or without; reads of total width N advance it by exactly N; and what a
peek returns depends on the bits it peeks only (R120). -/
def Obligations.ReadsAdvanceByTheirTotalWidth : Prop :=
  (∀ (s t : State) (n : Nat), exec (.brPeek n) s = .next t → t.brPos = s.brPos) ∧
  (∀ (ns : List Nat) (s t : State), Claims.readsTo ns s t → t.brPos.toNat = s.brPos.toNat + ns.sum) ∧
  ∀ (s s' t t' : State) (n : Nat), s.brPos = s'.brPos →
    (∀ j, j < n → inputBit s (cursor s + j) = inputBit s' (cursor s + j)) →
    exec (.brPeek n) s = .next t → exec (.brPeek n) s' = .next t' → s.status.err = false → s'.status.err = false →
    t.status.err = false → t'.status.err = false → t.result = t'.result

/-- `BR_ALIGN` moves the cursor to the least multiple of m at or above it, and changes nothing else, whenever that multiple
fits the register (the premise is the model's, log 12). A multiple of 0 or above 2^31 is `BAD_WIDTH`, and nothing but the
flags and the error registers changes (R114, R119, R276). -/
def Obligations.AlignMovesToTheNextMultiple : Prop :=
  ∀ s : State, s.status.initDone = true →
    (0 < s.arg.toNat → s.arg.toNat ≤ 2 ^ 31 → (∃ k, cursor s ≤ k * s.arg.toNat ∧ k * s.arg.toNat < 2 ^ 32) →
      ∃ t, exec .brAlign s = .next t ∧ s.arg.toNat ∣ cursor t ∧ cursor s ≤ cursor t ∧
        cursor t < cursor s + s.arg.toNat ∧ t = finished { s with brPos := t.brPos }) ∧
    (s.arg.toNat = 0 ∨ 2 ^ 31 < s.arg.toNat →
      ∃ t, exec .brAlign s = .next t ∧ reports s t 2 (cursor s) ∧ onlyFlags s t)

/-! ## Huffman codebooks (R130 to R135) -/

/-- The round trip: for every codebook and every symbol that has a code, a stream that starts with the code decodes to the
symbol, sign-extended in a signed table, and the cursor advances by the code's length, whatever bits follow (R135). -/
def Obligations.HuffmanCodesDecodeToTheirSymbols : Prop :=
  ∀ (s : State) (id i : Nat), s.status.initDone = true → lutsHold s → id ≤ 12 →
    usedSymbol (s.rom.huff id) i → cursor s + (s.rom.huff id).maxb ≤ s.limitBits →
    s.field (cursor s) ((s.rom.huff id).len i) = (s.rom.huff id).code i →
    exec (.huffDecode id) s = .next (finished { s with
      result := BitVec.ofInt 32 (symbolMeans id i)
      brPos := BitVec.ofNat 32 (cursor s + (s.rom.huff id).len i) })

/-- An empty codebook, one whose `BITS` are all 0 (the model's reading, log 9), is `BAD_TABLE`; a window that crosses
the limit is `OVERRUN`, even where a shorter code would fit; a window that no code covers is `HUFF_INVALID`; the cursor stays
in all three (R133, R134). -/
def Obligations.HuffmanErrorsLeaveTheCursor : Prop :=
  ∀ (s : State) (id : Nat), s.status.initDone = true → lutsHold s → id ≤ 12 →
    ((∀ b ∈ (s.rom.huff id).bits, b = 0) →
      ∃ t, exec (.huffDecode id) s = .next t ∧ reports s t 3 (cursor s) ∧ t.brPos = s.brPos) ∧
    ((∃ b ∈ (s.rom.huff id).bits, b ≠ 0) → s.limitBits < cursor s + (s.rom.huff id).maxb →
      ∃ t, exec (.huffDecode id) s = .next t ∧ reports s t 7 (max (cursor s) s.limitBits) ∧ t.brPos = s.brPos) ∧
    ((∃ b ∈ (s.rom.huff id).bits, b ≠ 0) → cursor s + (s.rom.huff id).maxb ≤ s.limitBits →
      (∀ i, usedSymbol (s.rom.huff id) i → ¬covers (s.rom.huff id) i (s.field (cursor s) (s.rom.huff id).maxb)) →
      ∃ t, exec (.huffDecode id) s = .next t ∧ reports s t 4 (cursor s) ∧ t.brPos = s.brPos)

/-! ## Field extraction (R244 to R249) -/

/-- `PARSE_HEADER` on a readable header with the sync value. With mapped selectors the fields in order go to `HDR`, `FLEN`
(with its offset), `GEOM.NCH`, `GEOM.FBITS` and both `MBITS`; no value is truncated; the cursor stands after the header;
nothing else changes. With an unmapped one it is `INDEX_RANGE`, after the whole header is read. A header that crosses the
limit, at its sync field or after a sync field with the sync value, is `OVERRUN`, the cursor at the start of the field that
cannot be read (R87, R110, R112, R244, R245, R276). -/
def Obligations.ParseHeaderStoresTheHeaderFields : Prop :=
  ∀ (s : State) (p1 p2 p3 p4 stop : Nat), s.status.initDone = true →
    p1 = cursor s + 8 → p2 = p1 + s.rom.sridBits → p3 = p2 + s.rom.ccidBits → p4 = p3 + s.rom.flenBits →
    stop = p4 + s.rom.fstatBits →
    (stop ≤ s.limitBits → s.field (cursor s) 8 = s.rom.syncWord →
      (∀ fb e, s.rom.fbits (s.field p1 s.rom.sridBits) = some fb → s.rom.ccid (s.field p2 s.rom.ccidBits) = some e →
        ∃ t, exec .parseHeader s = .next t ∧
          t.hdr.srid.toNat = s.field p1 s.rom.sridBits ∧ t.hdr.ccid.toNat = s.field p2 s.rom.ccidBits ∧
          t.hdr.fstat.toNat = s.field p4 s.rom.fstatBits ∧
          t.flen.toNat = s.field p3 s.rom.flenBits + s.rom.flenOffset ∧
          t.geom.nch.toNat = e.nch ∧ t.geom.fbits.toNat = fb ∧ t.ch0.mbits.toNat = fb ∧ t.ch1.mbits.toNat = fb ∧
          cursor t = stop ∧
          t = finished { s with
            hdr := t.hdr
            flen := t.flen
            geom := { s.geom with nch := t.geom.nch, fbits := t.geom.fbits }
            ch0 := { s.ch0 with mbits := t.ch0.mbits }
            ch1 := { s.ch1 with mbits := t.ch1.mbits }
            brPos := t.brPos }) ∧
      (s.rom.fbits (s.field p1 s.rom.sridBits) = none ∨ s.rom.ccid (s.field p2 s.rom.ccidBits) = none →
        ∃ t, exec .parseHeader s = .next t ∧ reports s t 6 stop)) ∧
    (s.limitBits < p1 ∨ s.field (cursor s) 8 = s.rom.syncWord ∧ s.limitBits < stop →
      ∃ t, exec .parseHeader s = .next t ∧ overruns s t (headerFields s.rom))

/-- The sync error (R246), of `PARSE_HEADER` and of `DECODE_FRAME`: recoverable, `ERR_POS` and `BR_POS` at the sync field,
`BYTES_CONSUMED` 0 inside `DECODE_FRAME`, every other register, array and byte unchanged. -/
def Obligations.ASyncErrorConsumesNothing : Prop :=
  ∀ s : State, s.status.initDone = true → cursor s + 8 ≤ s.limitBits → s.field (cursor s) 8 ≠ s.rom.syncWord →
    (∃ t, exec .parseHeader s = .next t ∧ reports s t 1 (cursor s) ∧ t.status.fatal = s.status.fatal ∧ onlyFlags s t) ∧
    ∃ t, exec .decodeFrame s = .next t ∧ reports s t 1 (cursor s) ∧ t.status.fatal = s.status.fatal ∧
      onlyFlags { s with bytesConsumed := 0 } t

/-- `PARSE_BAND` on a readable field whose band count has an `NQU_ROM` entry: `NBANDS` and `NQU` take the count and the
entry, untruncated, the flag is skipped, nothing else changes; a count without an entry is `INDEX_RANGE`; a field or flag
that crosses the limit is `OVERRUN`, the cursor at its start (R110, R112, R247, R276). -/
def Obligations.ParseBandStoresBandAndUnitCounts : Prop :=
  ∀ (s : State) (nb : Nat), s.status.initDone = true → nb = s.field (cursor s) s.rom.bandBits + s.rom.bandOffset →
    (s.readable (cursor s) s.rom.bandBits → s.readable (cursor s + s.rom.bandBits) s.rom.bandFlagBits →
      (∀ nqu, s.rom.nquRom[nb]? = some nqu →
        ∃ t, exec .parseBand s = .next t ∧ t.geom.nbands.toNat = nb ∧ t.geom.nqu.toNat = nqu ∧
          t = finished { s with
            geom := { s.geom with nbands := t.geom.nbands, nqu := t.geom.nqu }
            brPos := BitVec.ofNat 32 (cursor s + s.rom.bandBits + s.rom.bandFlagBits) }) ∧
      (s.rom.nquRom[nb]? = none →
        ∃ t, exec .parseBand s = .next t ∧ reports s t 6 (cursor s + s.rom.bandBits + s.rom.bandFlagBits))) ∧
    (0 < s.rom.bandBits + s.rom.bandFlagBits → s.limitBits < cursor s + s.rom.bandBits + s.rom.bandFlagBits →
      ∃ t, exec .parseBand s = .next t ∧ overruns s t [s.rom.bandBits, s.rom.bandFlagBits])

/-- `PARSE_GRADIENT` in mode 0 reads all four values and the boundary; in modes 1 to 3 it reads startUnit, startValue and
the boundary and fixes endUnit, by default 26, and endValue 31; no value is truncated; nothing else changes. A field that
crosses the limit is `OVERRUN`, the cursor at its start (R110, R112, R248, R249, R276). -/
def Obligations.ParseGradientStoresTheGradientFields : Prop :=
  ∀ (s : State) (f p q : Nat), s.status.initDone = true → f = cursor s + 2 →
    (s.field (cursor s) 2 = 0 → p = f + s.rom.gsu0Bits + s.rom.geu0Bits ∧ q = p + s.rom.gsvBits + s.rom.gevBits) →
    (s.field (cursor s) 2 ≠ 0 → p = f + s.rom.gsu1Bits ∧ q = p + s.rom.gsvBits) →
    (q + s.rom.gbndBits ≤ s.limitBits →
      ∃ t, exec .parseGradient s = .next t ∧
        t.gparam0.gmode.toNat = s.field (cursor s) 2 ∧ t.gparam0.gbnd.toNat = s.field q s.rom.gbndBits ∧
        t.gparam1.gsv.toNat = s.field p s.rom.gsvBits ∧
        (s.field (cursor s) 2 = 0 →
          t.gparam0.gsu.toNat = s.field f s.rom.gsu0Bits ∧
          t.gparam0.geu.toNat = s.field (f + s.rom.gsu0Bits) s.rom.geu0Bits + s.rom.geu0Offset ∧
          t.gparam1.gev.toNat = s.field (p + s.rom.gsvBits) s.rom.gevBits) ∧
        (s.field (cursor s) 2 ≠ 0 →
          t.gparam0.gsu.toNat = s.field f s.rom.gsu1Bits ∧ t.gparam0.geu.toNat = s.rom.gradM1EndUnit ∧
          (s.rom.usesDefaultParameters = true → t.gparam0.geu.toNat = 26) ∧
          t.gparam1.gev.toNat = 31) ∧
        t = finished { s with
          gparam0 := t.gparam0, gparam1 := t.gparam1, brPos := BitVec.ofNat 32 (q + s.rom.gbndBits) }) ∧
    (s.limitBits < q + s.rom.gbndBits → ∃ t, exec .parseGradient s = .next t ∧
      overruns s t (gradientFields s.rom (s.field (cursor s) 2)))

/-! ## Gradient and precision (R150 to R158) -/

/-- `GRADIENT_BUILD`: all 34 entries are −GSV below GEU and −GEV from it on, less the interpolation term from GSU to GEU
where GEV ≠ GSV; the shift is the floor; nothing else changes. GEU above 34, or a missing curve row, is `INDEX_RANGE`
(R150 to R152). -/
def Obligations.GradientBuildComputesTheCurve : Prop :=
  ∀ (s : State) (gsu geu gsv gev : Nat), s.status.initDone = true →
    gsu = s.gparam0.gsu.toNat → geu = s.gparam0.geu.toNat → gsv = s.gparam1.gsv.toNat → gev = s.gparam1.gev.toNat →
    (gradientFits s.rom (gsu, geu, gsv, gev) →
      ∃ t, exec .gradientBuild s = .next t ∧ t = finished { s with gradient := t.gradient } ∧
        ∀ i, i < 34 → Units.int t.gradient i = gradientAt s.rom (gsu, geu, gsv, gev) i) ∧
    (34 < geu ∨ gsu < geu ∧ gev ≠ gsv ∧ s.rom.curveSpans ≤ geu - gsu - 1 →
      ∃ t, exec .gradientBuild s = .next t ∧ reports s t 6 (cursor s))

/-- `PMASK_BUILD`: entry i gets min(d − 1, 5) for a rise of more than 1 into unit i and min(−d − 1, 5) for a fall of more
than 1 out of it, among the units below NQU; so it is at most 10; nothing else changes. NQU above 34 is `INDEX_RANGE`
(R154). -/
def Obligations.PmaskBuildAddsTheStepsBetweenFactors : Prop :=
  ∀ (s : State) (c : Chan), s.status.initDone = true →
    (s.geom.nqu.toNat ≤ 34 →
      ∃ t, exec (.pmaskBuild c) s = .next t ∧
        t = finished (withChan s c { s.chan c with pmask := (t.chan c).pmask }) ∧
        ∀ i, i < 34 → Units.int (t.chan c).pmask i = maskAt s.geom.nqu.toNat (Units.int (s.chan c).sf) i ∧
          Units.int (t.chan c).pmask i ≤ 10) ∧
    (34 < s.geom.nqu.toNat → ∃ t, exec (.pmaskBuild c) s = .next t ∧ reports s t 6 (cursor s))

/-- The sum of R156 for unit i, before the division. -/
def Claims.precisionSum (s : State) (c : Chan) (i : Nat) : Int :=
  Units.int (s.chan c).sf i + Units.int s.gradient i +
    if s.gparam0.gmode = 0 then 0 else Units.int (s.chan c).pmask i

/-- The whole precision of unit i (R156). -/
def Claims.precisionOf (s : State) (c : Chan) (i : Nat) : Int :=
  precisionFrom s.gparam0.gmode.toNat s.gparam0.gbnd.toNat (Claims.precisionSum s c i) i

/-- `PRECISION_CALC`: below NQU the precision up to 15 goes to `PREC` and the rest to `PRECF`, so 1 ≤ `PREC` ≤ 15 and
0 ≤ `PRECF`; from NQU up both are 0; nothing else changes. The premise keeps the sum inside an int32 cell, as R8 says every
stored value is (a host can write factors that break it, log 18). NQU above 34, or a mode above 3, is `INDEX_RANGE` (R155 to
R158). -/
def Obligations.PrecisionCalcSplitsThePrecision : Prop :=
  ∀ (s : State) (c : Chan), s.status.initDone = true →
    (s.geom.nqu.toNat ≤ 34 → s.gparam0.gmode.toNat ≤ 3 →
      ∃ t, exec (.precisionCalc c) s = .next t ∧
        t = finished (withChan s c { s.chan c with prec := (t.chan c).prec, precf := (t.chan c).precf }) ∧
        (∀ i, s.geom.nqu.toNat ≤ i → i < 34 →
          Units.int (t.chan c).prec i = 0 ∧ Units.int (t.chan c).precf i = 0) ∧
        ∀ i, i < s.geom.nqu.toNat → Claims.precisionSum s c i < 2 ^ 31 - 1 →
          Units.int (t.chan c).prec i = min (Claims.precisionOf s c i) 15 ∧
          Units.int (t.chan c).precf i = max (Claims.precisionOf s c i - 15) 0 ∧
          1 ≤ Units.int (t.chan c).prec i) ∧
    (34 < s.geom.nqu.toNat ∨ 3 < s.gparam0.gmode.toNat →
      ∃ t, exec (.precisionCalc c) s = .next t ∧ reports s t 6 (cursor s))

/-! ## Scale factors (R170 to R175) -/

/-- `SF_DECODE`, scheme A (mode bit 0): after the selector, offset and weight index, a first value of sel + 3 bits and then
codes of table U(sel + 3); coded value i is the sum of the first i + 1 modulo 2^(sel + 3), and the factor is that plus the
offset less the weight. From NQU up the factors are 0, nothing else changes. A field that crosses the limit is `OVERRUN`,
and a code that cannot be decoded is its error, with the cursor at the start of that field or code. In every scheme NQU above 34 is `INDEX_RANGE`, before any bit is read (R88, R110, R112, R133, R170, R171, R276). -/
def Obligations.SchemeADecodesChainedDifferences : Prop :=
  ∀ (s : State) (c : Chan) (l : LocalCh), s.status.initDone = true → (c = .c0 → l = .l0) →
    (34 < s.geom.nqu.toNat → ∃ t, exec (.sfDecode c l) s = .next t ∧ reports s t 6 (cursor s)) ∧
    ∀ bl w off wt first : Nat, s.geom.nqu.toNat ≤ 34 → s.field (cursor s) 1 = 0 →
      bl = s.field (cursor s + 1) 2 + 3 → off = s.field (cursor s + 3) s.rom.sfOffsetBits →
      w = cursor s + 3 + s.rom.sfOffsetBits → wt = s.field w 3 → first = s.field (w + 3) bl →
      (∀ (syms : List Nat) (q : Nat), lutsHold s → w + 3 ≤ s.limitBits →
        (s.geom.nqu.toNat = 0 → syms = [] ∧ q = w + 3) →
        (0 < s.geom.nqu.toNat → w + 3 + bl ≤ s.limitBits ∧
          syms.length + 1 = s.geom.nqu.toNat ∧ codesAt s bl syms (w + 3 + bl) q) →
        ∃ t, exec (.sfDecode c l) s = .next t ∧
          t = finished { withChan s c { s.chan c with sf := (t.chan c).sf, sfcfg := (t.chan c).sfcfg } with
            brPos := BitVec.ofNat 32 q } ∧
          (t.chan c).sfcfg.sfmode = 0 ∧ (t.chan c).sfcfg.sfblen.toNat = bl ∧ (t.chan c).sfcfg.sfoff.toNat = off ∧
          (t.chan c).sfcfg.sfwt.toNat = wt ∧
          (∀ i, i < s.geom.nqu.toNat → Units.int (t.chan c).sf i =
            ((first + (syms.take i).sum) % 2 ^ bl : Nat) + (off : Int) - s.rom.weight wt i) ∧
          ∀ i, s.geom.nqu.toNat ≤ i → i < 34 → Units.int (t.chan c).sf i = 0) ∧
      (s.limitBits < w + 3 ∨ 0 < s.geom.nqu.toNat ∧ s.limitBits < w + 3 + bl →
        ∃ t, exec (.sfDecode c l) s = .next t ∧
          overruns s t ([1, 2, s.rom.sfOffsetBits, 3] ++ if s.geom.nqu.toNat = 0 then [] else [bl])) ∧
      ∀ (syms : List Nat) (q : Nat) (code : BitVec 8) (pos : Nat), lutsHold s → w + 3 + bl ≤ s.limitBits →
        syms.length + 1 < s.geom.nqu.toNat → codesAt s bl syms (w + 3 + bl) q → codeFails s bl q code pos →
        ∃ t, exec (.sfDecode c l) s = .next t ∧ reports s t code pos ∧ cursor t = q

/-- `SF_DECODE`, scheme B (mode bit 1, LCH 0): a width above 4 means raw 5-bit factors, with `SFOFF` and `SFWT` as they
were; otherwise values of that width, plus the offset less the weight. From NQU up the factors are 0, nothing else changes.
A field that crosses the limit is `OVERRUN`, the cursor at its start (R88, R110, R112, R170, R173, R276). -/
def Obligations.SchemeBReadsFixedWidthFactors : Prop :=
  ∀ (s : State) (c : Chan) (bl : Nat), s.status.initDone = true → s.geom.nqu.toNat ≤ 34 →
    s.field (cursor s) 1 = 1 → bl = s.field (cursor s + 1) 2 + s.rom.sfBBase →
    (4 < bl →
      (cursor s + 3 + 5 * s.geom.nqu.toNat ≤ s.limitBits →
        ∃ t, exec (.sfDecode c .l0) s = .next t ∧
          t = finished { withChan s c { s.chan c with sf := (t.chan c).sf, sfcfg := (t.chan c).sfcfg } with
            brPos := BitVec.ofNat 32 (cursor s + 3 + 5 * s.geom.nqu.toNat) } ∧
          (t.chan c).sfcfg = { (s.chan c).sfcfg with sfmode := 1, sfblen := BitVec.ofNat 4 bl } ∧
          ∀ i, i < 34 → Units.int (t.chan c).sf i =
            if i < s.geom.nqu.toNat then (s.field (cursor s + 3 + 5 * i) 5 : Int) else 0) ∧
      (s.limitBits < cursor s + 3 + 5 * s.geom.nqu.toNat →
        ∃ t, exec (.sfDecode c .l0) s = .next t ∧
          overruns s t ([1, 2] ++ List.replicate s.geom.nqu.toNat 5))) ∧
    ∀ off wt w, bl ≤ 4 → off = s.field (cursor s + 3) s.rom.sfOffsetBits →
      w = cursor s + 3 + s.rom.sfOffsetBits → wt = s.field w 3 →
      (w + 3 + bl * s.geom.nqu.toNat ≤ s.limitBits →
        ∃ t, exec (.sfDecode c .l0) s = .next t ∧
          t = finished { withChan s c { s.chan c with sf := (t.chan c).sf, sfcfg := (t.chan c).sfcfg } with
            brPos := BitVec.ofNat 32 (w + 3 + bl * s.geom.nqu.toNat) } ∧
          (t.chan c).sfcfg.sfmode = 1 ∧ (t.chan c).sfcfg.sfblen.toNat = bl ∧ (t.chan c).sfcfg.sfoff.toNat = off ∧
          (t.chan c).sfcfg.sfwt.toNat = wt ∧
          ∀ i, i < 34 → Units.int (t.chan c).sf i =
            if i < s.geom.nqu.toNat then (s.field (w + 3 + bl * i) bl : Int) - s.rom.weight wt i + off else 0) ∧
      (s.limitBits < w + 3 + bl * s.geom.nqu.toNat →
        ∃ t, exec (.sfDecode c .l0) s = .next t ∧
          overruns s t ([1, 2, s.rom.sfOffsetBits, 3] ++ List.replicate s.geom.nqu.toNat bl))

/-- `SF_DECODE`, scheme C (mode bit 1, LCH 1): factor i of channel 1 is channel 0's factor i, as it stands, plus the signed
value of the i-th code of table S(sel + 2), in an int32 cell; from NQU up the factors are 0, nothing else changes. A field
that crosses the limit is `OVERRUN`, and a code that cannot be decoded is its error, with the cursor at the start of that
field or code (R88, R110, R112, R133, R170, R174, R175, R276). -/
def Obligations.SchemeCAddsDifferencesToChannelZero : Prop :=
  ∀ (s : State) (bl : Nat), s.status.initDone = true → s.geom.nqu.toNat ≤ 34 →
    s.field (cursor s) 1 = 1 → bl = s.field (cursor s + 1) 2 + 2 →
    (∀ (syms : List Nat) (q : Nat), lutsHold s → cursor s + 3 ≤ s.limitBits → syms.length = s.geom.nqu.toNat →
      codesAt s (7 + bl) syms (cursor s + 3) q →
      ∃ t, exec (.sfDecode .c1 .l1) s = .next t ∧
        t = finished { s with
          ch1 := { s.ch1 with
            sf := t.ch1.sf
            sfcfg := { s.ch1.sfcfg with sfmode := 1, sfblen := BitVec.ofNat 4 bl } }
          brPos := BitVec.ofNat 32 q } ∧
        (∀ i, i < s.geom.nqu.toNat →
          Units.at t.ch1.sf i = Units.at s.ch0.sf i + BitVec.ofInt 32 (signed bl (syms.getD i 0))) ∧
        ∀ i, s.geom.nqu.toNat ≤ i → i < 34 → Units.at t.ch1.sf i = 0) ∧
    (s.limitBits < cursor s + 3 → ∃ t, exec (.sfDecode .c1 .l1) s = .next t ∧ overruns s t [1, 2]) ∧
    ∀ (syms : List Nat) (q : Nat) (code : BitVec 8) (pos : Nat), lutsHold s → cursor s + 3 ≤ s.limitBits →
      syms.length < s.geom.nqu.toNat → codesAt s (7 + bl) syms (cursor s + 3) q → codeFails s (7 + bl) q code pos →
      ∃ t, exec (.sfDecode .c1 .l1) s = .next t ∧ reports s t code pos ∧ cursor t = q

/-! ## Spectrum (R190 to R196) -/

/-- `SPEC_DECODE` of a readable spectrum with valid joint codes and precisions: every line of every unit below NQU holds its
joint or plain value, every other line 0, and the cursor advances by the bits of R196; nothing else changes. NQU above 34 is
`INDEX_RANGE`. A unit whose precision is outside 0..15 is `INDEX_RANGE` where it starts; an `INVALID` joint code is
`JOINT_INVALID` where it ends; units that cross the limit are `OVERRUN`, the cursor at the start of the code or sample that
cannot be read (R89, R110, R112, R191 to R194, R196, R271, R276). -/
def Obligations.SpecDecodeReadsEveryLine : Prop :=
  ∀ (s : State) (c : Chan), s.status.initDone = true →
    (34 < s.geom.nqu.toNat → ∃ t, exec (.specDecode c) s = .next t ∧ reports s t 6 (cursor s)) ∧
    (∀ total, s.geom.nqu.toNat ≤ 34 → specDecodes s c s.geom.nqu.toNat →
      total = bitsBefore (specBits s c) s.geom.nqu.toNat → total = 0 ∨ cursor s + total ≤ s.limitBits →
      ∃ t, exec (.specDecode c) s = .next t ∧
        t = finished { withChan s c { s.chan c with qspec := (t.chan c).qspec } with
          brPos := BitVec.ofNat 32 (cursor s + total) } ∧
        (∀ i j, i < s.geom.nqu.toNat → j < s.rom.nsps i →
          some (Lines.int (t.chan c).qspec (s.rom.isp i + j)) = specValue s c i j) ∧
        ∀ n, n < 256 → (∀ i, i < s.geom.nqu.toNat → ¬inUnit s.rom i n) → Lines.int (t.chan c).qspec n = 0) ∧
    ∀ k, s.geom.nqu.toNat ≤ 34 → k < s.geom.nqu.toNat → specDecodes s c k →
      (specStart s c k = cursor s ∨ specStart s c k ≤ s.limitBits → ¬precInRange s c k →
        ∃ t, exec (.specDecode c) s = .next t ∧ reports s t 6 (specStart s c k)) ∧
      (∀ j, j < s.rom.nsps k → (∀ j', j' < j → specValue s c k j' ≠ none) → specValue s c k j = none →
        jointEnd s c k j ≤ s.limitBits →
        ∃ t, exec (.specDecode c) s = .next t ∧ reports s t 5 (jointEnd s c k j)) ∧
      (precInRange s c k → cursor s < specStart s c (k + 1) → s.limitBits < specStart s c (k + 1) →
        (∀ j, j < s.rom.nsps k → jointEnd s c k j ≤ s.limitBits → specValue s c k j ≠ none) →
        ∃ t, exec (.specDecode c) s = .next t ∧
          overruns s t ((List.range (k + 1)).flatMap (fun i => coarseFields (precOf s c i) (s.rom.nsps i))))

/-- `SPEC_FINE_DECODE` of a readable fine spectrum: the lines of the units below NQU with a positive fine precision hold
their residuals, every other line 0, and the cursor advances by the bits of R196; nothing else changes. NQU above 34 is
`INDEX_RANGE`, and so is a unit whose fine precision is above 15, where it starts; units that cross the limit are `OVERRUN`,
the cursor at the start of the residual that cannot be read (R89, R110, R112, R195, R196, R271, R276). -/
def Obligations.SpecFineDecodeReadsTheResiduals : Prop :=
  ∀ (s : State) (c : Chan), s.status.initDone = true →
    (34 < s.geom.nqu.toNat → ∃ t, exec (.specFineDecode c) s = .next t ∧ reports s t 6 (cursor s)) ∧
    (∀ total, s.geom.nqu.toNat ≤ 34 →
      (∀ i, i < s.geom.nqu.toNat → Units.int (s.chan c).precf i ≤ 15) →
      total = bitsBefore (fineBits s c) s.geom.nqu.toNat → total = 0 ∨ cursor s + total ≤ s.limitBits →
      ∃ t, exec (.specFineDecode c) s = .next t ∧
        t = finished { withChan s c { s.chan c with qspecf := (t.chan c).qspecf } with
          brPos := BitVec.ofNat 32 (cursor s + total) } ∧
        (∀ i j, i < s.geom.nqu.toNat → j < s.rom.nsps i →
          Lines.int (t.chan c).qspecf (s.rom.isp i + j) = fineValue s c i j) ∧
        ∀ n, n < 256 → (∀ i, i < s.geom.nqu.toNat → ¬inUnit s.rom i n) → Lines.int (t.chan c).qspecf n = 0) ∧
    ∀ k start stop, s.geom.nqu.toNat ≤ 34 → k < s.geom.nqu.toNat →
      (∀ i, i < k → Units.int (s.chan c).precf i ≤ 15) →
      start = cursor s + bitsBefore (fineBits s c) k → stop = cursor s + bitsBefore (fineBits s c) (k + 1) →
      (start = cursor s ∨ start ≤ s.limitBits → 15 < Units.int (s.chan c).precf k →
        ∃ t, exec (.specFineDecode c) s = .next t ∧ reports s t 6 start) ∧
      (Units.int (s.chan c).precf k ≤ 15 → cursor s < stop → s.limitBits < stop →
        ∃ t, exec (.specFineDecode c) s = .next t ∧
          overruns s t ((List.range (k + 1)).flatMap (fun i =>
            List.replicate (s.rom.nsps i) (sampleWidth (fineOf s c i)))))

/-! ## Dequantizer and scaler (R210 to R212) -/

/-- `DEQUANT`: each line of a unit below NQU is the coarse product plus the fine product, each operation rounded once, both
steps indexed by the coarse precision; every other line is +0.0; nothing else changes. A precision outside 0..15, or NQU
above 34, is `INDEX_RANGE` (R210). -/
def Obligations.DequantMultipliesByTheSteps : Prop :=
  ∀ (s : State) (c : Chan), s.status.initDone = true →
    (s.geom.nqu.toNat ≤ 34 → (∀ i, i < s.geom.nqu.toNat → precInRange s c i) →
      ∃ t, exec (.dequant c) s = .next t ∧
        t = finished (withChan s c { s.chan c with spec := (t.chan c).spec }) ∧
        (∀ i n, i < s.geom.nqu.toNat → inUnit s.rom i n → Lines.at (t.chan c).spec n =
          fadd (fmul (i2f (Lines.int (s.chan c).qspec n)) (s.rom.step (precOf s c i)))
            (fmul (i2f (Lines.int (s.chan c).qspecf n)) (s.rom.fineStep (precOf s c i)))) ∧
        ∀ n, n < 256 → (∀ i, i < s.geom.nqu.toNat → ¬inUnit s.rom i n) → Lines.at (t.chan c).spec n = 0) ∧
    (34 < s.geom.nqu.toNat ∨ (∃ i, i < s.geom.nqu.toNat ∧ ¬precInRange s c i) →
      ∃ t, exec (.dequant c) s = .next t ∧ reports s t 6 (cursor s))

/-- `SCALE`: a line of a unit below NQU with a factor k in 1..31 is multiplied by the binary32 number 2^(k − 24); a factor
of 0 or less, and every other line, is left bit-exact; nothing else changes. A factor above 31, or NQU above 34, is
`INDEX_RANGE` (R212). -/
def Obligations.ScaleMultipliesByPowersOfTwo : Prop :=
  ∀ (s : State) (c : Chan), s.status.initDone = true →
    (s.geom.nqu.toNat ≤ 34 → (∀ i, i < s.geom.nqu.toNat → Units.int (s.chan c).sf i ≤ 31) →
      ∃ t, exec (.scale c) s = .next t ∧
        t = finished (withChan s c { s.chan c with spec := (t.chan c).spec }) ∧
        (∀ i n, i < s.geom.nqu.toNat → inUnit s.rom i n → 0 < Units.int (s.chan c).sf i →
          ∃ m, finite m ∧ fpInt m = 2 ^ (149 - 24 + (Units.int (s.chan c).sf i).toNat) ∧
            Lines.at (t.chan c).spec n = fmul (Lines.at (s.chan c).spec n) m) ∧
        ∀ n, n < 256 → (∀ i, i < s.geom.nqu.toNat → inUnit s.rom i n → Units.int (s.chan c).sf i ≤ 0) →
          Lines.at (t.chan c).spec n = Lines.at (s.chan c).spec n) ∧
    (34 < s.geom.nqu.toNat ∨ (∃ i, i < s.geom.nqu.toNat ∧ 31 < Units.int (s.chan c).sf i) →
      ∃ t, exec (.scale c) s = .next t ∧ reports s t 6 (cursor s))

/-! ## Binary32 and the sample conversion (R10, R250) -/

/-- Addition, subtraction, multiplication and the conversion of an integer deliver the binary32 value nearest to the exact
real result, ties to even (R10). -/
def Obligations.ArithmeticRoundsToNearestEven : Prop :=
  (∀ a b : Word, finite a → finite b →
    nearest (fpInt a + fpInt b) 0 (fadd a b) ∧ nearest (fpInt a - fpInt b) 0 (fsub a b) ∧
    nearest (fpInt a * fpInt b) 149 (fmul a b)) ∧
  ∀ n : Int, nearest (n * 2 ^ 149) 0 (i2f n)

/-- `I16` (R250): 0 for a NaN, and otherwise the nearest integer, halves away from zero, saturated to 16 bits; infinities
saturate. -/
def Obligations.SampleConversionRoundsHalfAwayFromZero : Prop :=
  ∀ v : Word,
    (fpIsNaN v = true → fpToI16 v = 0) ∧
    (v = 0x7F800000 → fpToI16 v = 32767) ∧ (v = 0xFF800000 → fpToI16 v = -32768) ∧
    (finite v → ∃ r : Int, 2 * |r * 2 ^ 149 - fpInt v| ≤ 2 ^ 149 ∧
      (2 * |r * 2 ^ 149 - fpInt v| = 2 ^ 149 → |fpInt v| < |r| * 2 ^ 149) ∧
      fpToI16 v = max (-32768) (min 32767 r))

/-! ## IMDCT (R220 to R231) -/

/-- `SHUF[k]` reverses the k bits of i XOR (i >> 1), and is a permutation of 0..2^k − 1 (R221). -/
def Obligations.ShuffleIsAPermutation : Prop :=
  ∀ k, k ≤ 8 →
    (∀ i j, i < 2 ^ k → j < k → (shufRom k i).testBit (k - 1 - j) = ((i ^^^ (i >>> 1)).testBit j)) ∧
    (∀ i, i < 2 ^ k → shufRom k i < 2 ^ k) ∧
    (∀ i j, i < 2 ^ k → j < 2 ^ k → shufRom k i = shufRom k j → i = j) ∧
    ∀ m, m < 2 ^ k → ∃ i, i < 2 ^ k ∧ shufRom k i = m

/-- `Dct4` is the three passes of R223 to R225: with `T 0` the pre-rotated input, `T (st + 1)` what butterfly stage `st`
makes of `T st`, and the last one shuffled and scaled. -/
def Obligations.Dct4RunsItsThreePasses : Prop :=
  ∀ (c : Config) (b : Nat) (x : Lines), b = 7 ∨ b = 8 → ∃ T : Nat → Lines,
    (∀ i, i < 2 ^ (b - 1) →
      Lines.at (T 0) (2 * i) =
        fadd (fmul (Lines.at x (2 * i)) (c.tcosAt b i)) (fmul (Lines.at x (2 ^ b - 1 - 2 * i)) (c.tsinAt b i)) ∧
      Lines.at (T 0) (2 * i + 1) =
        fsub (fmul (Lines.at x (2 * i)) (c.tsinAt b i)) (fmul (Lines.at x (2 ^ b - 1 - 2 * i)) (c.tcosAt b i))) ∧
    (∀ st bh blk i f g, st < b - 1 → bh = b - 1 - st - 1 → blk < 2 ^ st → i < 2 ^ bh →
      f = 2 * (blk * 2 ^ (b - 1 - st) + i) → g = f + 2 ^ (b - 1 - st) →
      let u := fsub (Lines.at (T st) f) (Lines.at (T st) g)
      let v := fsub (Lines.at (T st) (f + 1)) (Lines.at (T st) (g + 1))
      Lines.at (T (st + 1)) f = fadd (Lines.at (T st) f) (Lines.at (T st) g) ∧
      Lines.at (T (st + 1)) (f + 1) = fadd (Lines.at (T st) (f + 1)) (Lines.at (T st) (g + 1)) ∧
      Lines.at (T (st + 1)) g = fadd (fmul u (c.tcosAt bh i)) (fmul v (c.tsinAt bh i)) ∧
      Lines.at (T (st + 1)) (g + 1) = fsub (fmul u (c.tsinAt bh i)) (fmul v (c.tcosAt bh i))) ∧
    ∀ k, k < 2 ^ b → Lines.at (dct4 c b x) k = fmul (Lines.at (T (b - 1)) (shufRom b k)) (c.imdctScale b)

/-- `OverlapAdd` (R227): each output and each new overlap value from the old ones, for every buffer `P`; cells from N up
are not touched. -/
def Obligations.OverlapAddWindowsAndAddsThePreviousHalf : Prop :=
  ∀ (c : Config) (b n h : Nat) (u pcm p : Lines), b = 7 ∨ b = 8 → n = 2 ^ b → h = n / 2 →
    let w := c.window b
    let r := overlapAdd c b u pcm p
    (∀ i, i < h →
      Lines.at r.1 i = fadd (fmul (w i) (Lines.at u (i + h))) (Lines.at p i) ∧
      Lines.at r.1 (i + h) = fsub (fmul (w (i + h)) (fneg (Lines.at u (n - 1 - i)))) (Lines.at p (i + h)) ∧
      Lines.at r.2 i = fmul (w (n - 1 - i)) (fneg (Lines.at u (h - 1 - i))) ∧
      Lines.at r.2 (i + h) = fmul (w (h - 1 - i)) (Lines.at u i)) ∧
    ∀ i, n ≤ i → Lines.at r.1 i = Lines.at pcm i ∧ Lines.at r.2 i = Lines.at p i

/-- `IMDCT` of a channel of size class 7 or 8 puts the overlap-add of the transformed spectrum with `PREV` into `PCM` and
`PREV`, at once, and changes nothing else; coefficients from N up do not matter. Any other size class is `BAD_SIZE`, before
any write (R226, R313). -/
def Obligations.ImdctTransformsAndOverlaps : Prop :=
  ∀ (s : State) (c : Chan) (b : Nat) (x : Lines), s.status.initDone = true → b = (s.chan c).mbits.toNat →
    (b = 7 ∨ b = 8 → (∀ n, n < 2 ^ b → Lines.at x n = Lines.at (s.chan c).spec n) →
      exec (.imdct c) s = .next (finished (withChan s c { s.chan c with
        pcm := (overlapAdd s.rom b (dct4 s.rom b x) (s.chan c).pcm (s.chan c).prev).1
        prev := (overlapAdd s.rom b (dct4 s.rom b x) (s.chan c).pcm (s.chan c).prev).2 }))) ∧
    (b ≠ 7 → b ≠ 8 → ∃ t, exec (.imdct c) s = .next t ∧ reports s t 12 (cursor s) ∧ onlyFlags s t)

/-- Zero in, zero out (R229). For any finite tables an all-zero spectrum with an all-zero overlap gives all-zero PCM and
leaves the overlap all zero. With the default tables and a positive scale the signs are fixed: on an overlap of +0.0, and on
the one such a call leaves, `PCM` is +0.0 then −0.0 and the new overlap −0.0 then +0.0, and in 16-bit mode every sample
is 0. -/
def Obligations.ZeroSpectrumGivesZeroSamples : Prop :=
  ∀ (s : State) (c : Chan) (b h : Nat), s.status.initDone = true → b = (s.chan c).mbits.toNat → b = 7 ∨ b = 8 →
    h = 2 ^ (b - 1) →
    ((∀ k i, finite (s.rom.tsinAt k i) ∧ finite (s.rom.tcosAt k i)) → (∀ i, finite (s.rom.window b i)) →
      finite (s.rom.imdctScale b) →
      (∀ n, n < 2 * h → fpIsZero (Lines.at (s.chan c).spec n) = true ∧ fpIsZero (Lines.at (s.chan c).prev n) = true) →
      ∃ t, exec (.imdct c) s = .next t ∧ ∀ n, n < 2 * h →
        fpIsZero (Lines.at (t.chan c).pcm n) = true ∧ fpIsZero (Lines.at (t.chan c).prev n) = true ∧
        i16Bits (Lines.at (t.chan c).pcm n) = 0) ∧
    (usesDefaultTables s.rom = true → finite (s.rom.imdctScale b) → 0 < fpInt (s.rom.imdctScale b) →
      (∀ n, n < 2 * h → Lines.at (s.chan c).spec n = 0) →
      (∀ n, n < 2 * h → Lines.at (s.chan c).prev n = 0) ∨
        (∀ i, i < h → Lines.at (s.chan c).prev i = 0x80000000 ∧ Lines.at (s.chan c).prev (i + h) = 0) →
      ∃ t, exec (.imdct c) s = .next t ∧ ∀ i, i < h →
        Lines.at (t.chan c).pcm i = 0 ∧ Lines.at (t.chan c).pcm (i + h) = 0x80000000 ∧
        Lines.at (t.chan c).prev i = 0x80000000 ∧ Lines.at (t.chan c).prev (i + h) = 0)

/-- The overlap buffer is written by reset, by an accepted `IMDCT` of that channel, and by a `DECODE_FRAME` that ends
without an error, and by nothing else a step can do (R49, R231, R256, R259). -/
def Obligations.OverlapChangesOnlyByImdctFrameOrReset : Prop :=
  ∀ (s t : State) (c : Chan), step s = .next t → (t.chan c).prev ≠ (s.chan c).prev →
    ∃ rest, s.hostQueue = .reset :: rest ∨
      ∃ w, writesCmd s w rest ∧ s.status.busy = false ∧ s.status.fatal = false ∧
        (decodeWord w = some (.imdct c) ∨ decodeWord w = some .decodeFrame ∧ t.status.err = false)

/-! ## PCM output and frames (R250 to R260) -/

/-- `PCM_OUT` (R252): when NCH is 1 or 2, the size class 7 or 8 and the frame fits, sample n of channel ch stands at
`OUT_PTR` + (n·NCH + ch)·sz, little-endian, as `I16` or as the binary32 pattern (R251), every byte outside the frame's is as
before, and `OUT_PTR` advances past the frame; nothing else changes. Otherwise the first of `INDEX_RANGE`, `BAD_SIZE`,
`OUT_RANGE` that applies, before any write. -/
def Obligations.PcmOutInterleavesTheSamples : Prop :=
  ∀ (s : State) (nch n sz ptr : Nat), s.status.initDone = true → nch = s.geom.nch.toNat → n = 2 ^ s.geom.fbits.toNat →
    sz = (if s.ctrl.outFmt then 4 else 2) → ptr = s.outPtrWord.toNat →
    (nch = 1 ∨ nch = 2 → s.geom.fbits = 7 ∨ s.geom.fbits = 8 → ptr + nch * n * sz ≤ s.rom.outBufBytes →
      ∃ t, exec .pcmOut s = .next t ∧ t = finished { s with outBuf := t.outBuf, outPtr := t.outPtr } ∧
        t.outPtrWord.toNat = ptr + nch * n * sz ∧
        (∀ k ch, k < n → ch < nch →
          let a := ptr + (k * nch + ch) * sz
          let v := Lines.at (s.chan (slot ch)).pcm k
          (sz = 2 → t.outByte (a + 1) ++ t.outByte a = i16Bits v) ∧
          (sz = 4 → t.outByte (a + 3) ++ t.outByte (a + 2) ++ t.outByte (a + 1) ++ t.outByte a = v)) ∧
        ∀ a, a < ptr ∨ ptr + nch * n * sz ≤ a → t.outByte a = s.outByte a) ∧
    (nch ≠ 1 → nch ≠ 2 → ∃ t, exec .pcmOut s = .next t ∧ reports s t 6 (cursor s) ∧ onlyFlags s t) ∧
    (nch = 1 ∨ nch = 2 → s.geom.fbits ≠ 7 → s.geom.fbits ≠ 8 →
      ∃ t, exec .pcmOut s = .next t ∧ reports s t 12 (cursor s) ∧ onlyFlags s t) ∧
    (nch = 1 ∨ nch = 2 → s.geom.fbits = 7 ∨ s.geom.fbits = 8 → s.rom.outBufBytes < ptr + nch * n * sz →
      ∃ t, exec .pcmOut s = .next t ∧ reports s t 11 (cursor s) ∧ onlyFlags s t)

/-- Bytes consumed (R260): after a `DECODE_FRAME` without error `BYTES_CONSUMED` is `FLEN` + `FLEN_ADJ`, and the cursor
stands 8 times that many bits after the start of the frame. -/
def Obligations.AFrameConsumesItsDeclaredLength : Prop :=
  ∀ s t : State, exec .decodeFrame s = .next t → t.status.err = false →
    (t.bytesConsumed.toNat : Int) = t.flen.toNat + s.rom.flenAdj ∧
    t.brPos.toNat = s.brPos.toNat + 8 * t.bytesConsumed.toNat

/-- A frame that fails is all-or-nothing: with any error of `DECODE_FRAME`, the overlap buffers, `RESULT`, `IN_BUF` and the
lookup tables are as before, `BYTES_CONSUMED` is 0, and every error but `SYNC` is fatal (R246, R259, R276); where a header
field cannot be read the error is `OVERRUN`, the cursor at its start (R110, R112). `OUT_BUF` and `OUT_PTR` too are as before after
`SYNC` (R246), `OUT_RANGE` (R252) and `FRAME_OVERRUN`, and `OUT_PTR` after `JOINT_INVALID` (program P5 of 95_test_vectors.md
and its variant); after every error `OUT_BUF` outside the bytes that a frame can write (which these are is DEDUCED, log 25). -/
def Obligations.AFailedFrameLeavesTheOverlapState : Prop :=
  ∀ s t : State, s.status.err = false → exec .decodeFrame s = .next t → t.status.err = true →
    (∀ c, (t.chan c).prev = (s.chan c).prev) ∧ (∀ a, t.inByte a = s.inByte a) ∧
    (t.status.errCode ∈ ([1, 10, 11] : List (BitVec 8)) → sameBytes s t) ∧
    (t.status.errCode ∈ ([1, 5, 10, 11] : List (BitVec 8)) → t.outPtr = s.outPtr) ∧
    (∀ a, beyondPcm s a → t.outByte a = s.outByte a) ∧ t.result = s.result ∧
    t.hlut = s.hlut ∧ t.bytesConsumed = 0 ∧ (t.status.errCode ≠ 1 → t.status.fatal = true) ∧
    (s.status.initDone = true →
      s.limitBits < cursor s + 8 ∨ s.field (cursor s) 8 = s.rom.syncWord ∧
        s.limitBits < cursor s + (headerFields s.rom).sum →
      overruns s t (headerFields s.rom))

/-- `DECODE_FRAME` is the sequence of the standalone commands (R85, R253 to R258): if `hdr.parse`, the commands of every
sub-block and, from the frame's end, `pcm.out` each end without an error, then so does `DECODE_FRAME`, in the state they
reach, with `BYTES_CONSUMED` set and the working overlap equal to the committed one. `ARG` is 8 for the alignment. -/
def Obligations.AFrameEqualsItsCommandSequence : Prop :=
  ∀ (s h b t : State) (e : CcidEntry) (stop : Nat), s.status.err = false → s.arg = 8 →
    runsTo [.parseHeader] s h → s.rom.ccid h.hdr.ccid.toNat = some e →
    runsTo ((List.range e.blocks).flatMap (blockCommands e.chb)) h b →
    (stop : Int) = cursor s + 8 * (b.flen.toNat + s.rom.flenAdj) → cursor b ≤ stop →
    runsTo [.pcmOut] { b with brPos := BitVec.ofNat 32 stop } t →
    exec .decodeFrame s = .next { t with
      bytesConsumed := BitVec.ofInt 32 (t.flen.toNat + s.rom.flenAdj)
      ch0 := { t.ch0 with workPrev := t.ch0.prev }
      ch1 := { t.ch1 with workPrev := t.ch1.prev } }

/-- A frame, mono, dual-mono or stereo, on the state alone: a readable header and, in the stream, readable sub-blocks whose
counts, curves, factors, precisions and joint codes are in range. Ending within the declared length and with room for the
PCM, it completes, the cursor at the declared end, `BYTES_CONSUMED` and `OUT_PTR` advanced; lines of no unit are +0.0, and a
channel it does not decode keeps its overlap. Ending beyond the declared length it is `FRAME_OVERRUN` where it ends; without
room for the PCM it is `OUT_RANGE` at the declared end (R252, R255 to R258, R271). -/
def Obligations.AReadableFrameCompletesOrReportsItsEnd : Prop :=
  ∀ (s : State) (p1 p2 p3 body q fb room : Nat) (stop : Int) (e : CcidEntry) (ns : List Nat),
    s.status.initDone = true → s.status.err = false → lutsHold s →
    p1 = cursor s + 8 → p2 = p1 + s.rom.sridBits → p3 = p2 + s.rom.ccidBits →
    body = p3 + s.rom.flenBits + s.rom.fstatBits → body ≤ s.limitBits →
    s.field (cursor s) 8 = s.rom.syncWord → s.rom.fbits (s.field p1 s.rom.sridBits) = some fb →
    s.rom.ccid (s.field p2 s.rom.ccidBits) = some e → ns.length = e.blocks → blocksAt s e.chb ns body q →
    stop = cursor s + 8 * (s.field p3 s.rom.flenBits + s.rom.flenOffset + s.rom.flenAdj) →
    room = s.outPtrWord.toNat + e.nch * 2 ^ fb * (if s.ctrl.outFmt then 4 else 2) →
    (q ≤ stop → room ≤ s.rom.outBufBytes →
      ∃ t, exec .decodeFrame s = .next t ∧
        t.status = { s.status with busy := false, done := true } ∧ (cursor t : Int) = stop ∧
        8 * (t.bytesConsumed.toNat : Int) = stop - cursor s ∧ t.outPtrWord.toNat = room ∧
        (∀ b l n nqu, ns[b]? = some nqu → l < e.chb → n < 256 → (∀ i, i < nqu → ¬inUnit s.rom i n) →
          Lines.at (t.chan (slot (b * e.chb + l))).spec n = 0) ∧
        (e.nch = 1 → t.ch1.prev = s.ch1.prev)) ∧
    (stop < q → ∃ t, exec .decodeFrame s = .next t ∧ reports s t 10 q) ∧
    (q ≤ stop → s.rom.outBufBytes < room → ∃ t, exec .decodeFrame s = .next t ∧ reports s t 11 stop.toNat)

/-! ## Frames of the commands: what each leaves unchanged (R27, R276) -/

/-- The bit reader and `HUFF_DECODE` write `RESULT` and `BR_POS` only, `BR_PEEK` not `BR_POS`, `BR_ALIGN` not `RESULT`; the
field commands and `GRADIENT_BUILD` write the registers of R244, R247, R248, R150 and, but for the last, `BR_POS` only:
with or without an error. -/
def Obligations.ReaderAndFieldCommandsWriteTheirRegistersOnly : Prop :=
  ∀ (i : Instr) (n id : Nat) (s t : State), exec i s = .next t →
    i ∈ [.brPeek n, .brRead n, .brReadSigned n, .brReadOb n, .brAlign, .huffDecode id, .parseHeader, .parseBand,
      .parseGradient, .gradientBuild] →
    sameBytes s t ∧ t.status.initDone = s.status.initDone ∧
    (i ∈ [.brPeek n, .brRead n, .brReadSigned n, .brReadOb n, .brAlign, .huffDecode id] →
      onlyFlags { s with result := t.result, brPos := t.brPos } t) ∧
    (i = .brPeek n → t.brPos = s.brPos) ∧ (i = .brAlign → t.result = s.result) ∧
    (i = .parseHeader → onlyFlags { s with
      hdr := t.hdr, flen := t.flen, brPos := t.brPos
      geom := { s.geom with nch := t.geom.nch, fbits := t.geom.fbits }
      ch0 := { s.ch0 with mbits := t.ch0.mbits }
      ch1 := { s.ch1 with mbits := t.ch1.mbits } } t) ∧
    (i = .parseBand → onlyFlags { s with
      brPos := t.brPos, geom := { s.geom with nbands := t.geom.nbands, nqu := t.geom.nqu } } t) ∧
    (i = .parseGradient → onlyFlags { s with brPos := t.brPos, gparam0 := t.gparam0, gparam1 := t.gparam1 } t) ∧
    (i = .gradientBuild → onlyFlags { s with gradient := t.gradient } t)

/-- The per-channel engines write their own arrays of their own channel only, and those that read the bitstream `BR_POS`:
with or without an error. -/
def Obligations.ChannelCommandsWriteTheirArraysOnly : Prop :=
  ∀ (s t : State) (c : Chan),
    (∀ i, i ∈ [.pmaskBuild c, .precisionCalc c, .dequant c, .scale c, .imdct c, .sfDecode c .l0, .sfDecode c .l1,
        .specDecode c, .specFineDecode c] → exec i s = .next t →
      onlyChannel s t c ∧ sameBytes s t ∧ t.status.initDone = s.status.initDone) ∧
    (exec (.pmaskBuild c) s = .next t →
      t.brPos = s.brPos ∧ t.chan c = { s.chan c with pmask := (t.chan c).pmask }) ∧
    (exec (.precisionCalc c) s = .next t →
      t.brPos = s.brPos ∧ t.chan c = { s.chan c with prec := (t.chan c).prec, precf := (t.chan c).precf }) ∧
    (∀ l, exec (.sfDecode c l) s = .next t →
      t.chan c = { s.chan c with sf := (t.chan c).sf, sfcfg := (t.chan c).sfcfg }) ∧
    (exec (.specDecode c) s = .next t → t.chan c = { s.chan c with qspec := (t.chan c).qspec }) ∧
    (exec (.specFineDecode c) s = .next t → t.chan c = { s.chan c with qspecf := (t.chan c).qspecf }) ∧
    (exec (.dequant c) s = .next t ∨ exec (.scale c) s = .next t →
      t.brPos = s.brPos ∧ t.chan c = { s.chan c with spec := (t.chan c).spec }) ∧
    (exec (.imdct c) s = .next t →
      t.brPos = s.brPos ∧ t.chan c = { s.chan c with pcm := (t.chan c).pcm, prev := (t.chan c).prev })

/-- `PCM_OUT` writes `OUT_BUF` and `OUT_PTR` only, and `DECODE_FRAME` leaves the control registers, `RESULT`, `OUT_BUF`
outside its PCM, the input and the tables unchanged. Both write, without an error, only the bytes from `OUT_PTR` up to where
it ends; with an error `PCM_OUT` writes none and does not move `OUT_PTR`, nor does a frame that ends with `SYNC`,
`FRAME_OVERRUN` or `OUT_RANGE`, and after another error of a frame the bytes that no frame can write (DEDUCED which, log 25)
are unchanged, after `JOINT_INVALID` `OUT_PTR` too. -/
def Obligations.OutputCommandsWriteTheirPcmOnly : Prop :=
  ∀ (s t : State) (i : Instr), i = .pcmOut ∨ i = .decodeFrame → exec i s = .next t →
    (i = .pcmOut → onlyFlags { s with outBuf := t.outBuf, outPtr := t.outPtr } t) ∧
    t.cfg = s.cfg ∧ t.ctrl = s.ctrl ∧ t.cmdLast = s.cmdLast ∧ t.arg = s.arg ∧ t.result = s.result ∧ t.inLen = s.inLen ∧
    t.hlut = s.hlut ∧ t.inBuf = s.inBuf ∧ t.hostQueue = s.hostQueue ∧ t.hostData = s.hostData ∧
    t.ramEpoch = s.ramEpoch ∧ t.status.initDone = s.status.initDone ∧
    (∀ a, t.inByte a = s.inByte a) ∧
    (∀ a, beyondPcm s a → t.outByte a = s.outByte a) ∧
    (i = .pcmOut ∨ s.status.err = false ∧ t.status.err = false →
      ∀ a, t.outPtrWord.toNat ≤ a → t.outByte a = s.outByte a) ∧
    (s.status.err = false → t.status.err = true →
      (i = .pcmOut ∨ t.status.errCode ∈ ([1, 10, 11] : List (BitVec 8)) → t.outBuf = s.outBuf) ∧
      (i = .pcmOut ∨ t.status.errCode ∈ ([1, 5, 10, 11] : List (BitVec 8)) → t.outPtr = s.outPtr))

/-- The configuration never changes, and the lookup tables change only by an accepted `INIT` or a reset (R55, R61, R74). -/
def Obligations.RomsAndLookupTablesAreReadOnly : Prop :=
  ∀ s t : State, step s = .next t → t.cfg = s.cfg ∧
    (t.hlut ≠ s.hlut → ∃ rest, s.hostQueue = .reset :: rest ∨
      writesCmd s 1 rest ∧ s.status.busy = false ∧ s.status.fatal = false)

/-- The cursor does not move back within a command that ends without an error (R20), for `BR_ALIGN` when some multiple of
`ARG` at or above it fits the register (the premise is the model's, log 12). -/
def Obligations.TheCursorNeverMovesBack : Prop :=
  ∀ (i : Instr) (s t : State), exec i s = .next t → s.status.err = false → t.status.err = false →
    (i = .brAlign → ∃ k, cursor s ≤ k * s.arg.toNat ∧ k * s.arg.toNat < 2 ^ 32) → cursor s ≤ cursor t

/-! ## The invariant -/

/-- The invariant holds right after reset. -/
def Obligations.InvHoldsAtReset : Prop := State.reset.Inv

/-- Every step keeps the invariant. -/
def Obligations.EveryStepKeepsInv : Prop := ∀ s t : State, s.Inv → step s = .next t → t.Inv
end

