-- ==== Sys2Proof/Laws/Arrays.lean ====
section
/-! SUPPORT. The laws of the unit and line arrays: one read law per write. -/

namespace Sys2Proof.Machine

theorem units_at_eq (v : Units) (i : Nat) : Units.at v i = (v[i]?).getD 0 := by
  rw [Units.at, Vector.getD, Array.getD_eq_getD_getElem?, Vector.getElem?_toArray]

theorem lines_at_eq (v : Lines) (i : Nat) : Lines.at v i = (v[i]?).getD 0 := by
  rw [Lines.at, Vector.getD, Array.getD_eq_getD_getElem?, Vector.getElem?_toArray]

/-- A cell after a write of one cell of a unit array. -/
theorem units_at_put (v : Units) (i : Nat) (x : Word) (j : Nat) :
    Units.at (Units.put v i x) j = if i = j ∧ j < 34 then x else Units.at v j := by
  rw [units_at_eq, units_at_eq, Units.put]
  simp only [Vector.getElem?_setIfInBounds]
  by_cases h : i = j <;> by_cases hj : j < 34 <;> simp_all [Nat.not_lt.mpr]

/-- A cell after a write of one cell of a line array. -/
theorem lines_at_put (v : Lines) (i : Nat) (x : Word) (j : Nat) :
    Lines.at (Lines.put v i x) j = if i = j ∧ j < 256 then x else Lines.at v j := by
  rw [lines_at_eq, lines_at_eq, Lines.put]
  simp only [Vector.getElem?_setIfInBounds]
  by_cases h : i = j <;> by_cases hj : j < 256 <;> simp_all [Nat.not_lt.mpr]

/-- A cell after `Lines.fill`: the filled range, as far as it lies inside the array, and the rest. -/
theorem lines_at_fill (v : Lines) (start : Nat) (f : Nat → Word) (n j : Nat) :
    Lines.at (Lines.fill v start f n) j =
      if start ≤ j ∧ j < start + n ∧ j < 256 then f (j - start) else Lines.at v j := by
  induction n with
  | zero =>
    rw [if_neg (by omega)]
    rfl
  | succ n ih =>
    rw [Lines.fill, List.range_succ, List.foldl_append, List.foldl_cons, List.foldl_nil, lines_at_put]
    rw [Lines.fill] at ih
    rw [ih]
    by_cases h : start + n = j
    · subst h
      by_cases hj : start + n < 256
      · rw [if_pos ⟨rfl, hj⟩, if_pos (by omega), Nat.add_sub_cancel_left]
      · rw [if_neg (by omega), if_neg (by omega), if_neg (by omega)]
    · rw [if_neg (by omega)]
      by_cases hr : start ≤ j ∧ j < start + n ∧ j < 256
      · rw [if_pos hr, if_pos (by omega)]
      · rw [if_neg hr, if_neg (by omega)]

/-- A cell after `Lines.putList`. -/
theorem lines_at_putList (v : Lines) (start : Nat) (xs : List Word) (j : Nat) :
    Lines.at (Lines.putList v start xs) j =
      if start ≤ j ∧ j < start + xs.length ∧ j < 256 then xs.getD (j - start) 0 else Lines.at v j := by
  induction xs generalizing v start with
  | nil =>
    rw [if_neg (by simp only [List.length_nil]; omega)]
    rfl
  | cons x xs ih =>
    rw [Lines.putList, ih, lines_at_put, List.length_cons]
    by_cases h : start = j
    · subst h
      rw [if_neg (by omega)]
      by_cases hj : start < 256
      · rw [if_pos ⟨rfl, hj⟩, if_pos (by omega), Nat.sub_self, List.getD_cons_zero]
      · rw [if_neg (by omega), if_neg (by omega)]
    · rw [if_neg (c := start = j ∧ j < 256) (by omega)]
      by_cases hr : start + 1 ≤ j ∧ j < start + 1 + xs.length ∧ j < 256
      · rw [if_pos hr, if_pos (by omega), show j - start = (j - (start + 1)) + 1 by omega, List.getD_cons_succ]
      · rw [if_neg hr, if_neg (by omega)]

@[simp] theorem units_at_zero (i : Nat) : Units.at Units.zero i = 0 := by
  rw [units_at_eq, Units.zero, Vector.getElem?_replicate]
  split <;> rfl

@[simp] theorem lines_at_zero (i : Nat) : Lines.at Lines.zero i = 0 := by
  rw [lines_at_eq, Lines.zero, Vector.getElem?_replicate]
  split <;> rfl

/-- Cell `i` of an array given cell by cell. -/
theorem units_at_ofFn (f : Fin 34 → Word) {i : Nat} (h : i < 34) : Units.at (Vector.ofFn f) i = f ⟨i, h⟩ := by
  rw [units_at_eq]
  simp [h]

theorem lines_at_ofFn (f : Fin 256 → Word) {i : Nat} (h : i < 256) : Lines.at (Vector.ofFn f) i = f ⟨i, h⟩ := by
  rw [lines_at_eq]
  simp [h]

/-- Two arrays with the same cells are the same. -/
theorem lines_ext {v w : Lines} (h : ∀ i, i < 256 → Lines.at v i = Lines.at w i) : v = w := by
  ext i hi
  have := h i hi
  rw [lines_at_eq, lines_at_eq] at this
  have hvw : v[i] = w[i] := by simpa [hi] using this
  rw [hvw]

theorem units_ext {v w : Units} (h : ∀ i, i < 34 → Units.at v i = Units.at w i) : v = w := by
  ext i hi
  have := h i hi
  rw [units_at_eq, units_at_eq] at this
  have hvw : v[i] = w[i] := by simpa [hi] using this
  rw [hvw]

end Sys2Proof.Machine
end

