-- ==== Sys2Proof/Laws/State.lean ====
section
/-! SUPPORT. What each update of the state does to each field, so that no proof unfolds a record update. -/

namespace Sys2Proof.Machine

/-! ### `State.complete` -/

@[simp] theorem complete_cfg (s : State) : (s.complete).cfg = s.cfg := rfl
@[simp] theorem complete_ctrl (s : State) : (s.complete).ctrl = s.ctrl := rfl
@[simp] theorem complete_status (s : State) : (s.complete).status = s.status.complete := rfl
@[simp] theorem complete_cmdLast (s : State) : (s.complete).cmdLast = s.cmdLast := rfl
@[simp] theorem complete_arg (s : State) : (s.complete).arg = s.arg := rfl
@[simp] theorem complete_result (s : State) : (s.complete).result = s.result := rfl
@[simp] theorem complete_brPos (s : State) : (s.complete).brPos = s.brPos := rfl
@[simp] theorem complete_inLen (s : State) : (s.complete).inLen = s.inLen := rfl
@[simp] theorem complete_outPtr (s : State) : (s.complete).outPtr = s.outPtr := rfl
@[simp] theorem complete_bytesConsumed (s : State) : (s.complete).bytesConsumed = s.bytesConsumed := rfl
@[simp] theorem complete_errPos (s : State) : (s.complete).errPos = s.errPos := rfl
@[simp] theorem complete_errCmd (s : State) : (s.complete).errCmd = s.errCmd := rfl
@[simp] theorem complete_hdr (s : State) : (s.complete).hdr = s.hdr := rfl
@[simp] theorem complete_flen (s : State) : (s.complete).flen = s.flen := rfl
@[simp] theorem complete_geom (s : State) : (s.complete).geom = s.geom := rfl
@[simp] theorem complete_gparam0 (s : State) : (s.complete).gparam0 = s.gparam0 := rfl
@[simp] theorem complete_gparam1 (s : State) : (s.complete).gparam1 = s.gparam1 := rfl
@[simp] theorem complete_gradient (s : State) : (s.complete).gradient = s.gradient := rfl
@[simp] theorem complete_ch0 (s : State) : (s.complete).ch0 = s.ch0 := rfl
@[simp] theorem complete_ch1 (s : State) : (s.complete).ch1 = s.ch1 := rfl
@[simp] theorem complete_hlut (s : State) : (s.complete).hlut = s.hlut := rfl
@[simp] theorem complete_inBuf (s : State) : (s.complete).inBuf = s.inBuf := rfl
@[simp] theorem complete_outBuf (s : State) : (s.complete).outBuf = s.outBuf := rfl
@[simp] theorem complete_hostQueue (s : State) : (s.complete).hostQueue = s.hostQueue := rfl
@[simp] theorem complete_hostData (s : State) : (s.complete).hostData = s.hostData := rfl
@[simp] theorem complete_freeCtr (s : State) : (s.complete).freeCtr = s.freeCtr := rfl
@[simp] theorem complete_ramEpoch (s : State) : (s.complete).ramEpoch = s.ramEpoch := rfl

/-! ### `State.raise` -/

@[simp] theorem raise_cfg (s : State) (e : Raise) : (s.raise e).cfg = s.cfg := rfl
@[simp] theorem raise_ctrl (s : State) (e : Raise) : (s.raise e).ctrl = s.ctrl := rfl
@[simp] theorem raise_status (s : State) (e : Raise) : (s.raise e).status = s.status.raise e.err := rfl
@[simp] theorem raise_cmdLast (s : State) (e : Raise) : (s.raise e).cmdLast = s.cmdLast := rfl
@[simp] theorem raise_arg (s : State) (e : Raise) : (s.raise e).arg = s.arg := rfl
@[simp] theorem raise_result (s : State) (e : Raise) : (s.raise e).result = s.result := rfl
@[simp] theorem raise_brPos (s : State) (e : Raise) : (s.raise e).brPos = s.brPos := rfl
@[simp] theorem raise_inLen (s : State) (e : Raise) : (s.raise e).inLen = s.inLen := rfl
@[simp] theorem raise_outPtr (s : State) (e : Raise) : (s.raise e).outPtr = s.outPtr := rfl
@[simp] theorem raise_bytesConsumed (s : State) (e : Raise) : (s.raise e).bytesConsumed = s.bytesConsumed := rfl
@[simp] theorem raise_errPos (s : State) (e : Raise) : (s.raise e).errPos = Word.ofNat e.pos := rfl
@[simp] theorem raise_errCmd (s : State) (e : Raise) : (s.raise e).errCmd = s.cmdLast := rfl
@[simp] theorem raise_hdr (s : State) (e : Raise) : (s.raise e).hdr = s.hdr := rfl
@[simp] theorem raise_flen (s : State) (e : Raise) : (s.raise e).flen = s.flen := rfl
@[simp] theorem raise_geom (s : State) (e : Raise) : (s.raise e).geom = s.geom := rfl
@[simp] theorem raise_gparam0 (s : State) (e : Raise) : (s.raise e).gparam0 = s.gparam0 := rfl
@[simp] theorem raise_gparam1 (s : State) (e : Raise) : (s.raise e).gparam1 = s.gparam1 := rfl
@[simp] theorem raise_gradient (s : State) (e : Raise) : (s.raise e).gradient = s.gradient := rfl
@[simp] theorem raise_ch0 (s : State) (e : Raise) : (s.raise e).ch0 = s.ch0 := rfl
@[simp] theorem raise_ch1 (s : State) (e : Raise) : (s.raise e).ch1 = s.ch1 := rfl
@[simp] theorem raise_hlut (s : State) (e : Raise) : (s.raise e).hlut = s.hlut := rfl
@[simp] theorem raise_inBuf (s : State) (e : Raise) : (s.raise e).inBuf = s.inBuf := rfl
@[simp] theorem raise_outBuf (s : State) (e : Raise) : (s.raise e).outBuf = s.outBuf := rfl
@[simp] theorem raise_hostQueue (s : State) (e : Raise) : (s.raise e).hostQueue = s.hostQueue := rfl
@[simp] theorem raise_hostData (s : State) (e : Raise) : (s.raise e).hostData = s.hostData := rfl
@[simp] theorem raise_freeCtr (s : State) (e : Raise) : (s.raise e).freeCtr = s.freeCtr := rfl
@[simp] theorem raise_ramEpoch (s : State) (e : Raise) : (s.raise e).ramEpoch = s.ramEpoch := rfl

/-! ### `State.accept` -/

@[simp] theorem accept_cfg (s : State) (w : Word) : (s.accept w).cfg = s.cfg := rfl
@[simp] theorem accept_ctrl (s : State) (w : Word) : (s.accept w).ctrl = s.ctrl := rfl
@[simp] theorem accept_status (s : State) (w : Word) : (s.accept w).status = s.status.accept := rfl
@[simp] theorem accept_cmdLast (s : State) (w : Word) : (s.accept w).cmdLast = w := rfl
@[simp] theorem accept_arg (s : State) (w : Word) : (s.accept w).arg = s.arg := rfl
@[simp] theorem accept_result (s : State) (w : Word) : (s.accept w).result = s.result := rfl
@[simp] theorem accept_brPos (s : State) (w : Word) : (s.accept w).brPos = s.brPos := rfl
@[simp] theorem accept_inLen (s : State) (w : Word) : (s.accept w).inLen = s.inLen := rfl
@[simp] theorem accept_outPtr (s : State) (w : Word) : (s.accept w).outPtr = s.outPtr := rfl
@[simp] theorem accept_bytesConsumed (s : State) (w : Word) : (s.accept w).bytesConsumed = s.bytesConsumed := rfl
@[simp] theorem accept_errPos (s : State) (w : Word) : (s.accept w).errPos = s.errPos := rfl
@[simp] theorem accept_errCmd (s : State) (w : Word) : (s.accept w).errCmd = s.errCmd := rfl
@[simp] theorem accept_hdr (s : State) (w : Word) : (s.accept w).hdr = s.hdr := rfl
@[simp] theorem accept_flen (s : State) (w : Word) : (s.accept w).flen = s.flen := rfl
@[simp] theorem accept_geom (s : State) (w : Word) : (s.accept w).geom = s.geom := rfl
@[simp] theorem accept_gparam0 (s : State) (w : Word) : (s.accept w).gparam0 = s.gparam0 := rfl
@[simp] theorem accept_gparam1 (s : State) (w : Word) : (s.accept w).gparam1 = s.gparam1 := rfl
@[simp] theorem accept_gradient (s : State) (w : Word) : (s.accept w).gradient = s.gradient := rfl
@[simp] theorem accept_ch0 (s : State) (w : Word) : (s.accept w).ch0 = s.ch0 := rfl
@[simp] theorem accept_ch1 (s : State) (w : Word) : (s.accept w).ch1 = s.ch1 := rfl
@[simp] theorem accept_hlut (s : State) (w : Word) : (s.accept w).hlut = s.hlut := rfl
@[simp] theorem accept_inBuf (s : State) (w : Word) : (s.accept w).inBuf = s.inBuf := rfl
@[simp] theorem accept_outBuf (s : State) (w : Word) : (s.accept w).outBuf = s.outBuf := rfl
@[simp] theorem accept_hostQueue (s : State) (w : Word) : (s.accept w).hostQueue = s.hostQueue := rfl
@[simp] theorem accept_hostData (s : State) (w : Word) : (s.accept w).hostData = s.hostData := rfl
@[simp] theorem accept_freeCtr (s : State) (w : Word) : (s.accept w).freeCtr = s.freeCtr := rfl
@[simp] theorem accept_ramEpoch (s : State) (w : Word) : (s.accept w).ramEpoch = s.ramEpoch := rfl

/-! ### `State.setBrPos` -/

@[simp] theorem setBrPos_cfg (s : State) (p : Nat) : (s.setBrPos p).cfg = s.cfg := rfl
@[simp] theorem setBrPos_ctrl (s : State) (p : Nat) : (s.setBrPos p).ctrl = s.ctrl := rfl
@[simp] theorem setBrPos_status (s : State) (p : Nat) : (s.setBrPos p).status = s.status := rfl
@[simp] theorem setBrPos_cmdLast (s : State) (p : Nat) : (s.setBrPos p).cmdLast = s.cmdLast := rfl
@[simp] theorem setBrPos_arg (s : State) (p : Nat) : (s.setBrPos p).arg = s.arg := rfl
@[simp] theorem setBrPos_result (s : State) (p : Nat) : (s.setBrPos p).result = s.result := rfl
@[simp] theorem setBrPos_brPos (s : State) (p : Nat) : (s.setBrPos p).brPos = Word.ofNat p := rfl
@[simp] theorem setBrPos_inLen (s : State) (p : Nat) : (s.setBrPos p).inLen = s.inLen := rfl
@[simp] theorem setBrPos_outPtr (s : State) (p : Nat) : (s.setBrPos p).outPtr = s.outPtr := rfl
@[simp] theorem setBrPos_bytesConsumed (s : State) (p : Nat) : (s.setBrPos p).bytesConsumed = s.bytesConsumed := rfl
@[simp] theorem setBrPos_errPos (s : State) (p : Nat) : (s.setBrPos p).errPos = s.errPos := rfl
@[simp] theorem setBrPos_errCmd (s : State) (p : Nat) : (s.setBrPos p).errCmd = s.errCmd := rfl
@[simp] theorem setBrPos_hdr (s : State) (p : Nat) : (s.setBrPos p).hdr = s.hdr := rfl
@[simp] theorem setBrPos_flen (s : State) (p : Nat) : (s.setBrPos p).flen = s.flen := rfl
@[simp] theorem setBrPos_geom (s : State) (p : Nat) : (s.setBrPos p).geom = s.geom := rfl
@[simp] theorem setBrPos_gparam0 (s : State) (p : Nat) : (s.setBrPos p).gparam0 = s.gparam0 := rfl
@[simp] theorem setBrPos_gparam1 (s : State) (p : Nat) : (s.setBrPos p).gparam1 = s.gparam1 := rfl
@[simp] theorem setBrPos_gradient (s : State) (p : Nat) : (s.setBrPos p).gradient = s.gradient := rfl
@[simp] theorem setBrPos_ch0 (s : State) (p : Nat) : (s.setBrPos p).ch0 = s.ch0 := rfl
@[simp] theorem setBrPos_ch1 (s : State) (p : Nat) : (s.setBrPos p).ch1 = s.ch1 := rfl
@[simp] theorem setBrPos_hlut (s : State) (p : Nat) : (s.setBrPos p).hlut = s.hlut := rfl
@[simp] theorem setBrPos_inBuf (s : State) (p : Nat) : (s.setBrPos p).inBuf = s.inBuf := rfl
@[simp] theorem setBrPos_outBuf (s : State) (p : Nat) : (s.setBrPos p).outBuf = s.outBuf := rfl
@[simp] theorem setBrPos_hostQueue (s : State) (p : Nat) : (s.setBrPos p).hostQueue = s.hostQueue := rfl
@[simp] theorem setBrPos_hostData (s : State) (p : Nat) : (s.setBrPos p).hostData = s.hostData := rfl
@[simp] theorem setBrPos_freeCtr (s : State) (p : Nat) : (s.setBrPos p).freeCtr = s.freeCtr := rfl
@[simp] theorem setBrPos_ramEpoch (s : State) (p : Nat) : (s.setBrPos p).ramEpoch = s.ramEpoch := rfl

/-! ### `State.setOutPtr` -/

@[simp] theorem setOutPtr_cfg (s : State) (w : Word) : (s.setOutPtr w).cfg = s.cfg := rfl
@[simp] theorem setOutPtr_ctrl (s : State) (w : Word) : (s.setOutPtr w).ctrl = s.ctrl := rfl
@[simp] theorem setOutPtr_status (s : State) (w : Word) : (s.setOutPtr w).status = s.status := rfl
@[simp] theorem setOutPtr_cmdLast (s : State) (w : Word) : (s.setOutPtr w).cmdLast = s.cmdLast := rfl
@[simp] theorem setOutPtr_arg (s : State) (w : Word) : (s.setOutPtr w).arg = s.arg := rfl
@[simp] theorem setOutPtr_result (s : State) (w : Word) : (s.setOutPtr w).result = s.result := rfl
@[simp] theorem setOutPtr_brPos (s : State) (w : Word) : (s.setOutPtr w).brPos = s.brPos := rfl
@[simp] theorem setOutPtr_inLen (s : State) (w : Word) : (s.setOutPtr w).inLen = s.inLen := rfl
@[simp] theorem setOutPtr_outPtr (s : State) (w : Word) : (s.setOutPtr w).outPtr = w.extractLsb' 2 30 := rfl
@[simp] theorem setOutPtr_bytesConsumed (s : State) (w : Word) : (s.setOutPtr w).bytesConsumed = s.bytesConsumed := rfl
@[simp] theorem setOutPtr_errPos (s : State) (w : Word) : (s.setOutPtr w).errPos = s.errPos := rfl
@[simp] theorem setOutPtr_errCmd (s : State) (w : Word) : (s.setOutPtr w).errCmd = s.errCmd := rfl
@[simp] theorem setOutPtr_hdr (s : State) (w : Word) : (s.setOutPtr w).hdr = s.hdr := rfl
@[simp] theorem setOutPtr_flen (s : State) (w : Word) : (s.setOutPtr w).flen = s.flen := rfl
@[simp] theorem setOutPtr_geom (s : State) (w : Word) : (s.setOutPtr w).geom = s.geom := rfl
@[simp] theorem setOutPtr_gparam0 (s : State) (w : Word) : (s.setOutPtr w).gparam0 = s.gparam0 := rfl
@[simp] theorem setOutPtr_gparam1 (s : State) (w : Word) : (s.setOutPtr w).gparam1 = s.gparam1 := rfl
@[simp] theorem setOutPtr_gradient (s : State) (w : Word) : (s.setOutPtr w).gradient = s.gradient := rfl
@[simp] theorem setOutPtr_ch0 (s : State) (w : Word) : (s.setOutPtr w).ch0 = s.ch0 := rfl
@[simp] theorem setOutPtr_ch1 (s : State) (w : Word) : (s.setOutPtr w).ch1 = s.ch1 := rfl
@[simp] theorem setOutPtr_hlut (s : State) (w : Word) : (s.setOutPtr w).hlut = s.hlut := rfl
@[simp] theorem setOutPtr_inBuf (s : State) (w : Word) : (s.setOutPtr w).inBuf = s.inBuf := rfl
@[simp] theorem setOutPtr_outBuf (s : State) (w : Word) : (s.setOutPtr w).outBuf = s.outBuf := rfl
@[simp] theorem setOutPtr_hostQueue (s : State) (w : Word) : (s.setOutPtr w).hostQueue = s.hostQueue := rfl
@[simp] theorem setOutPtr_hostData (s : State) (w : Word) : (s.setOutPtr w).hostData = s.hostData := rfl
@[simp] theorem setOutPtr_freeCtr (s : State) (w : Word) : (s.setOutPtr w).freeCtr = s.freeCtr := rfl
@[simp] theorem setOutPtr_ramEpoch (s : State) (w : Word) : (s.setOutPtr w).ramEpoch = s.ramEpoch := rfl

/-! ### `State.setInLen` -/

@[simp] theorem setInLen_cfg (s : State) (w : Word) : (s.setInLen w).cfg = s.cfg := rfl
@[simp] theorem setInLen_ctrl (s : State) (w : Word) : (s.setInLen w).ctrl = s.ctrl := rfl
@[simp] theorem setInLen_status (s : State) (w : Word) : (s.setInLen w).status = s.status := rfl
@[simp] theorem setInLen_cmdLast (s : State) (w : Word) : (s.setInLen w).cmdLast = s.cmdLast := rfl
@[simp] theorem setInLen_arg (s : State) (w : Word) : (s.setInLen w).arg = s.arg := rfl
@[simp] theorem setInLen_result (s : State) (w : Word) : (s.setInLen w).result = s.result := rfl
@[simp] theorem setInLen_brPos (s : State) (w : Word) : (s.setInLen w).brPos = s.brPos := rfl
@[simp] theorem setInLen_inLen (s : State) (w : Word) : (s.setInLen w).inLen = Word.ofNat (min w.toNat s.rom.inBufBytes) := rfl
@[simp] theorem setInLen_outPtr (s : State) (w : Word) : (s.setInLen w).outPtr = s.outPtr := rfl
@[simp] theorem setInLen_bytesConsumed (s : State) (w : Word) : (s.setInLen w).bytesConsumed = s.bytesConsumed := rfl
@[simp] theorem setInLen_errPos (s : State) (w : Word) : (s.setInLen w).errPos = s.errPos := rfl
@[simp] theorem setInLen_errCmd (s : State) (w : Word) : (s.setInLen w).errCmd = s.errCmd := rfl
@[simp] theorem setInLen_hdr (s : State) (w : Word) : (s.setInLen w).hdr = s.hdr := rfl
@[simp] theorem setInLen_flen (s : State) (w : Word) : (s.setInLen w).flen = s.flen := rfl
@[simp] theorem setInLen_geom (s : State) (w : Word) : (s.setInLen w).geom = s.geom := rfl
@[simp] theorem setInLen_gparam0 (s : State) (w : Word) : (s.setInLen w).gparam0 = s.gparam0 := rfl
@[simp] theorem setInLen_gparam1 (s : State) (w : Word) : (s.setInLen w).gparam1 = s.gparam1 := rfl
@[simp] theorem setInLen_gradient (s : State) (w : Word) : (s.setInLen w).gradient = s.gradient := rfl
@[simp] theorem setInLen_ch0 (s : State) (w : Word) : (s.setInLen w).ch0 = s.ch0 := rfl
@[simp] theorem setInLen_ch1 (s : State) (w : Word) : (s.setInLen w).ch1 = s.ch1 := rfl
@[simp] theorem setInLen_hlut (s : State) (w : Word) : (s.setInLen w).hlut = s.hlut := rfl
@[simp] theorem setInLen_inBuf (s : State) (w : Word) : (s.setInLen w).inBuf = s.inBuf := rfl
@[simp] theorem setInLen_outBuf (s : State) (w : Word) : (s.setInLen w).outBuf = s.outBuf := rfl
@[simp] theorem setInLen_hostQueue (s : State) (w : Word) : (s.setInLen w).hostQueue = s.hostQueue := rfl
@[simp] theorem setInLen_hostData (s : State) (w : Word) : (s.setInLen w).hostData = s.hostData := rfl
@[simp] theorem setInLen_freeCtr (s : State) (w : Word) : (s.setInLen w).freeCtr = s.freeCtr := rfl
@[simp] theorem setInLen_ramEpoch (s : State) (w : Word) : (s.setInLen w).ramEpoch = s.ramEpoch := rfl

/-! ### `initTables` -/

@[simp] theorem initTables_cfg (s : State) : (initTables s).cfg = s.cfg := rfl
@[simp] theorem initTables_ctrl (s : State) : (initTables s).ctrl = s.ctrl := rfl
@[simp] theorem initTables_status (s : State) : (initTables s).status = { s.status with initDone := true } := rfl
@[simp] theorem initTables_cmdLast (s : State) : (initTables s).cmdLast = s.cmdLast := rfl
@[simp] theorem initTables_arg (s : State) : (initTables s).arg = s.arg := rfl
@[simp] theorem initTables_result (s : State) : (initTables s).result = s.result := rfl
@[simp] theorem initTables_brPos (s : State) : (initTables s).brPos = s.brPos := rfl
@[simp] theorem initTables_inLen (s : State) : (initTables s).inLen = s.inLen := rfl
@[simp] theorem initTables_outPtr (s : State) : (initTables s).outPtr = s.outPtr := rfl
@[simp] theorem initTables_bytesConsumed (s : State) : (initTables s).bytesConsumed = s.bytesConsumed := rfl
@[simp] theorem initTables_errPos (s : State) : (initTables s).errPos = s.errPos := rfl
@[simp] theorem initTables_errCmd (s : State) : (initTables s).errCmd = s.errCmd := rfl
@[simp] theorem initTables_hdr (s : State) : (initTables s).hdr = s.hdr := rfl
@[simp] theorem initTables_flen (s : State) : (initTables s).flen = s.flen := rfl
@[simp] theorem initTables_geom (s : State) : (initTables s).geom = s.geom := rfl
@[simp] theorem initTables_gparam0 (s : State) : (initTables s).gparam0 = s.gparam0 := rfl
@[simp] theorem initTables_gparam1 (s : State) : (initTables s).gparam1 = s.gparam1 := rfl
@[simp] theorem initTables_gradient (s : State) : (initTables s).gradient = s.gradient := rfl
@[simp] theorem initTables_ch0 (s : State) : (initTables s).ch0 = s.ch0 := rfl
@[simp] theorem initTables_ch1 (s : State) : (initTables s).ch1 = s.ch1 := rfl
@[simp] theorem initTables_hlut (s : State) : (initTables s).hlut = buildLuts s.rom := rfl
@[simp] theorem initTables_inBuf (s : State) : (initTables s).inBuf = s.inBuf := rfl
@[simp] theorem initTables_outBuf (s : State) : (initTables s).outBuf = s.outBuf := rfl
@[simp] theorem initTables_hostQueue (s : State) : (initTables s).hostQueue = s.hostQueue := rfl
@[simp] theorem initTables_hostData (s : State) : (initTables s).hostData = s.hostData := rfl
@[simp] theorem initTables_freeCtr (s : State) : (initTables s).freeCtr = s.freeCtr := rfl
@[simp] theorem initTables_ramEpoch (s : State) : (initTables s).ramEpoch = s.ramEpoch := rfl

/-! ### `State.setChan` -/

@[simp] theorem setChan_cfg (s : State) (c : Chan) (x : Channel) : (s.setChan c x).cfg = s.cfg := by cases c <;> rfl
@[simp] theorem setChan_ctrl (s : State) (c : Chan) (x : Channel) : (s.setChan c x).ctrl = s.ctrl := by cases c <;> rfl
@[simp] theorem setChan_status (s : State) (c : Chan) (x : Channel) : (s.setChan c x).status = s.status := by cases c <;> rfl
@[simp] theorem setChan_cmdLast (s : State) (c : Chan) (x : Channel) : (s.setChan c x).cmdLast = s.cmdLast := by cases c <;> rfl
@[simp] theorem setChan_arg (s : State) (c : Chan) (x : Channel) : (s.setChan c x).arg = s.arg := by cases c <;> rfl
@[simp] theorem setChan_result (s : State) (c : Chan) (x : Channel) : (s.setChan c x).result = s.result := by cases c <;> rfl
@[simp] theorem setChan_brPos (s : State) (c : Chan) (x : Channel) : (s.setChan c x).brPos = s.brPos := by cases c <;> rfl
@[simp] theorem setChan_inLen (s : State) (c : Chan) (x : Channel) : (s.setChan c x).inLen = s.inLen := by cases c <;> rfl
@[simp] theorem setChan_outPtr (s : State) (c : Chan) (x : Channel) : (s.setChan c x).outPtr = s.outPtr := by cases c <;> rfl
@[simp] theorem setChan_bytesConsumed (s : State) (c : Chan) (x : Channel) : (s.setChan c x).bytesConsumed = s.bytesConsumed := by cases c <;> rfl
@[simp] theorem setChan_errPos (s : State) (c : Chan) (x : Channel) : (s.setChan c x).errPos = s.errPos := by cases c <;> rfl
@[simp] theorem setChan_errCmd (s : State) (c : Chan) (x : Channel) : (s.setChan c x).errCmd = s.errCmd := by cases c <;> rfl
@[simp] theorem setChan_hdr (s : State) (c : Chan) (x : Channel) : (s.setChan c x).hdr = s.hdr := by cases c <;> rfl
@[simp] theorem setChan_flen (s : State) (c : Chan) (x : Channel) : (s.setChan c x).flen = s.flen := by cases c <;> rfl
@[simp] theorem setChan_geom (s : State) (c : Chan) (x : Channel) : (s.setChan c x).geom = s.geom := by cases c <;> rfl
@[simp] theorem setChan_gparam0 (s : State) (c : Chan) (x : Channel) : (s.setChan c x).gparam0 = s.gparam0 := by cases c <;> rfl
@[simp] theorem setChan_gparam1 (s : State) (c : Chan) (x : Channel) : (s.setChan c x).gparam1 = s.gparam1 := by cases c <;> rfl
@[simp] theorem setChan_gradient (s : State) (c : Chan) (x : Channel) : (s.setChan c x).gradient = s.gradient := by cases c <;> rfl
@[simp] theorem setChan_hlut (s : State) (c : Chan) (x : Channel) : (s.setChan c x).hlut = s.hlut := by cases c <;> rfl
@[simp] theorem setChan_inBuf (s : State) (c : Chan) (x : Channel) : (s.setChan c x).inBuf = s.inBuf := by cases c <;> rfl
@[simp] theorem setChan_outBuf (s : State) (c : Chan) (x : Channel) : (s.setChan c x).outBuf = s.outBuf := by cases c <;> rfl
@[simp] theorem setChan_hostQueue (s : State) (c : Chan) (x : Channel) : (s.setChan c x).hostQueue = s.hostQueue := by cases c <;> rfl
@[simp] theorem setChan_hostData (s : State) (c : Chan) (x : Channel) : (s.setChan c x).hostData = s.hostData := by cases c <;> rfl
@[simp] theorem setChan_freeCtr (s : State) (c : Chan) (x : Channel) : (s.setChan c x).freeCtr = s.freeCtr := by cases c <;> rfl
@[simp] theorem setChan_ramEpoch (s : State) (c : Chan) (x : Channel) : (s.setChan c x).ramEpoch = s.ramEpoch := by cases c <;> rfl

@[simp] theorem setChan_chan_same (s : State) (c : Chan) (x : Channel) : (s.setChan c x).chan c = x := by cases c <;> rfl

@[simp] theorem setChan_chan_other (s : State) (c d : Chan) (x : Channel) (h : d ≠ c) :
    (s.setChan c x).chan d = s.chan d := by
  cases c <;> cases d <;> first | rfl | exact absurd rfl h

@[simp] theorem setChan_setChan (s : State) (c : Chan) (x y : Channel) : (s.setChan c x).setChan c y = s.setChan c y := by
  cases c <;> rfl

@[simp] theorem setChan_chan_self (s : State) (c : Chan) : s.setChan c (s.chan c) = s := by cases c <;> rfl

@[simp] theorem chan_c0 (s : State) : s.chan .c0 = s.ch0 := rfl

@[simp] theorem chan_c1 (s : State) : s.chan .c1 = s.ch1 := rfl

/-- Every setting of the two slots is a `setChan` of each. -/
theorem setChan_ch0 (s : State) (c : Chan) (x : Channel) : (s.setChan c x).ch0 = if c = .c0 then x else s.ch0 := by
  cases c <;> rfl

theorem setChan_ch1 (s : State) (c : Chan) (x : Channel) : (s.setChan c x).ch1 = if c = .c1 then x else s.ch1 := by
  cases c <;> rfl

/-! ### Views that depend on a few fields -/

@[simp] theorem rom_complete (s : State) : s.complete.rom = s.rom := rfl

@[simp] theorem rom_raise (s : State) (e : Raise) : (s.raise e).rom = s.rom := rfl

@[simp] theorem rom_setBrPos (s : State) (p : Nat) : (s.setBrPos p).rom = s.rom := rfl

@[simp] theorem rom_setChan (s : State) (c : Chan) (x : Channel) : (s.setChan c x).rom = s.rom := by cases c <;> rfl

@[simp] theorem tablesBuilt_eq (s : State) : s.tablesBuilt = s.status.initDone := rfl

/-! ### The status flags -/

@[simp] theorem status_complete_busy (t : Status) : t.complete.busy = false := rfl

@[simp] theorem status_complete_done (t : Status) : t.complete.done = true := rfl

@[simp] theorem status_complete_err (t : Status) : t.complete.err = t.err := rfl

@[simp] theorem status_complete_fatal (t : Status) : t.complete.fatal = t.fatal := rfl

@[simp] theorem status_complete_initDone (t : Status) : t.complete.initDone = t.initDone := rfl

@[simp] theorem status_complete_errCode (t : Status) : t.complete.errCode = t.errCode := rfl

@[simp] theorem status_raise_busy (t : Status) (e : ErrCode) : (t.raise e).busy = false := rfl

@[simp] theorem status_raise_done (t : Status) (e : ErrCode) : (t.raise e).done = true := rfl

@[simp] theorem status_raise_err (t : Status) (e : ErrCode) : (t.raise e).err = true := rfl

@[simp] theorem status_raise_fatal (t : Status) (e : ErrCode) : (t.raise e).fatal = (t.fatal || e.fatal) := rfl

@[simp] theorem status_raise_initDone (t : Status) (e : ErrCode) : (t.raise e).initDone = t.initDone := rfl

@[simp] theorem status_raise_errCode (t : Status) (e : ErrCode) : (t.raise e).errCode = e.code := rfl

@[simp] theorem status_accept_busy (t : Status) : t.accept.busy = true := rfl

@[simp] theorem status_accept_done (t : Status) : t.accept.done = false := rfl

@[simp] theorem status_accept_err (t : Status) : t.accept.err = false := rfl

@[simp] theorem status_accept_fatal (t : Status) : t.accept.fatal = t.fatal := rfl

@[simp] theorem status_accept_initDone (t : Status) : t.accept.initDone = t.initDone := rfl

@[simp] theorem status_accept_errCode (t : Status) : t.accept.errCode = 0 := rfl

/-- A code is 1 for `SYNC` only, and between 1 and 12 (R270). -/
theorem code_range (e : ErrCode) : 1 ≤ e.code.toNat ∧ e.code.toNat ≤ 12 := by cases e <;> decide

theorem fatal_iff_code (e : ErrCode) : e.fatal = true ↔ e.code ≠ 1 := by cases e <;> decide

end Sys2Proof.Machine
end

