-- ==== Sys2Proof/Laws/Commands.lean ====
section
/-! SUPPORT. What the end of a command can be: the one case analysis that later proofs cite instead of unfolding
`runCommand`. -/

namespace Sys2Proof.Machine

/-- A `do` step of a rule succeeds exactly when its first part and the rest do. -/
theorem bind_ok {ε α β : Type} {x : Except ε α} {f : α → Except ε β} {r : β} :
    (x >>= f) = .ok r ↔ ∃ a, x = .ok a ∧ f a = .ok r := by
  cases x <;> simp [bind, Except.bind]

/-- A `do` step of a rule raises in its first part or in the rest. -/
theorem bind_error {ε α β : Type} {x : Except ε α} {f : α → Except ε β} {e : ε} :
    (x >>= f) = .error e ↔ x = .error e ∨ ∃ a, x = .ok a ∧ f a = .error e := by
  cases x <;> simp [bind, Except.bind]

@[simp] theorem ok_bind {ε α β : Type} (a : α) (f : α → Except ε β) : ((.ok a : Except ε α) >>= f) = f a := rfl

@[simp] theorem error_bind {ε α β : Type} (e : ε) (f : α → Except ε β) :
    ((.error e : Except ε α) >>= f) = .error e := rfl

@[simp] theorem pure_eq_ok {ε α : Type} (a : α) : (pure a : Except ε α) = .ok a := rfl

theorem throw_eq_error {ε α : Type} (e : ε) : (throw e : Except ε α) = .error e := rfl

/-- The first check of a per-unit rule passes exactly for NQU ≤ 34. -/
theorem checkNqu_ok {s : State} (h : s.nqu ≤ 34) : s.checkNqu = .ok () := by
  simp [State.checkNqu, Config.maxQu, Nat.not_lt.mpr h]

theorem checkNqu_error {s : State} (h : 34 < s.nqu) : s.checkNqu = .error (s.raiseHere .indexRange) := by
  simp [State.checkNqu, Config.maxQu, h]

theorem checkNqu_inv {s : State} {u : Unit} (h : s.checkNqu = .ok u) : s.nqu ≤ 34 := by
  unfold State.checkNqu at h
  split at h
  · cases h
  · rename_i hn
    simpa [Config.maxQu] using hn

variable {unspec : Raise → State → State} {rule : State → Except Raise State} {s : State}

theorem runCommand_ok {t : State} (hi : s.status.initDone = true) (h : rule s = .ok t) :
    runCommand unspec rule s = .next t.complete := by
  simp [runCommand, hi, h]

theorem runCommand_error {e : Raise} (hi : s.status.initDone = true) (h : rule s = .error e) :
    runCommand unspec rule s = .next (s.fail unspec e) := by
  simp [runCommand, hi, h]

theorem runCommand_notInit (hi : s.status.initDone = false) :
    runCommand unspec rule s = .next (s.fail unspec (s.raiseHere .notInit)) := by
  simp [runCommand, hi]

/-- How a command can end: without an error in the state its rule leaves, or with exactly one error. -/
theorem runCommand_cases {t : State} (h : runCommand unspec rule s = .next t) :
    (∃ u, s.status.initDone = true ∧ rule s = .ok u ∧ t = u.complete) ∨
    (∃ e, s.status.initDone = true ∧ rule s = .error e ∧ t = s.fail unspec e) ∨
    (s.status.initDone = false ∧ t = s.fail unspec (s.raiseHere .notInit)) := by
  cases hi : s.status.initDone with
  | false => exact .inr (.inr ⟨rfl, by simpa [runCommand, hi] using h.symm⟩)
  | true =>
    cases hr : rule s with
    | ok u => exact .inl ⟨u, rfl, rfl, by simpa [runCommand, hi, hr] using h.symm⟩
    | error e => exact .inr (.inl ⟨e, rfl, rfl, by simpa [runCommand, hi, hr] using h.symm⟩)

/-- A command always ends (R318). -/
theorem runCommand_next : ∃ t, runCommand unspec rule s = .next t := ⟨_, rfl⟩

/-- The error registers after an error, whatever the rest (R271, R272). -/
theorem fail_status (e : Raise) : (s.fail unspec e).status = (unspec e s).status.raise e.err := rfl

theorem fail_errPos (e : Raise) : (s.fail unspec e).errPos = Word.ofNat e.pos := rfl

theorem fail_errCmd (e : Raise) : (s.fail unspec e).errCmd = (unspec e s).cmdLast := rfl

theorem fail_brPos (e : Raise) : (s.fail unspec e).brPos = (unspec e s).brPos := rfl

/-- A read or a decode that raises leaves the cursor where it found it (R112, R133). -/
theorem cursorAfter_reader {e : Raise} (h : e.err.ofReader = true) : s.cursorAfter e = Word.ofNat e.cursor := if_pos h

/-- Where no bit was consumed before it, that is its value before the command. -/
theorem cursorAfter_first {e : Raise} (h : e.err.ofReader = true) (hc : e.cursor = s.brPos.toNat) :
    s.cursorAfter e = s.brPos := by
  rw [cursorAfter_reader h, hc, Word.ofNat, BitVec.ofNat_toNat, BitVec.setWidth_eq]

/-- After any other error its value is open (R276). -/
theorem cursorAfter_other {e : Raise} (h : e.err.ofReader = false) :
    s.cursorAfter e = Config.freeWord s.freeCtr .brPos := by simp [State.cursorAfter, h]

theorem fail_freeCtr (e : Raise) : (s.fail unspec e).freeCtr = s.freeCtr + 1 := rfl

end Sys2Proof.Machine
end

