-- ==== Sys2Proof/Laws/BitReader.lean ====
section
/-! SUPPORT. What the bit reader answers: the field when it is readable, and the first failing position when it is not
(R110 to R114). -/

namespace Sys2Proof.Machine

variable {s : State}

theorem streamBit_le (s : State) (p : Nat) : s.streamBit p ≤ 1 := by
  unfold State.streamBit
  split <;> omega

theorem bitAt_ok {pos p : Nat} (h : p < s.limitBits) : s.bitAt pos p = .ok (s.streamBit p) := by
  simp [State.bitAt, Nat.not_le.mpr h]

theorem bitAt_error {pos p : Nat} (h : s.limitBits ≤ p) : s.bitAt pos p = .error ⟨.overrun, p, pos⟩ := by
  simp [State.bitAt, h]

/-- A field's first bit is its most significant one. -/
theorem field_succ' (s : State) (pos n : Nat) :
    s.field pos (n + 1) = s.streamBit pos * 2 ^ n + s.field (pos + 1) n := by
  induction n with
  | zero => simp [State.field]
  | succ n ih =>
    rw [State.field, ih, State.field, show pos + 1 + n = pos + (n + 1) by omega, pow_succ]
    ring

theorem field_lt (s : State) (pos n : Nat) : s.field pos n < 2 ^ n := by
  induction n with
  | zero => simp [State.field]
  | succ n ih =>
    have := streamBit_le s (pos + n)
    rw [State.field, pow_succ]
    omega

theorem peekBits_ok {pos n p v : Nat} (h : n = 0 ∨ p + n ≤ s.limitBits) :
    s.peekBits pos n p v = .ok (v * 2 ^ n + s.field p n) := by
  induction n generalizing p v with
  | zero => simp [State.peekBits, State.field]
  | succ n ih =>
    rw [State.peekBits, bitAt_ok (by omega), ok_bind, ih (by omega), field_succ', pow_succ]
    congr 1
    ring

theorem peekBits_overrun {pos n p v : Nat} (hn : n ≠ 0) (h : s.limitBits < p + n) :
    s.peekBits pos n p v = .error ⟨.overrun, max p s.limitBits, pos⟩ := by
  induction n generalizing p v with
  | zero => exact absurd rfl hn
  | succ n ih =>
    rw [State.peekBits]
    by_cases hp : s.limitBits ≤ p
    · rw [bitAt_error hp, error_bind, max_eq_left hp]
    · rw [bitAt_ok (by omega), ok_bind, ih (by omega) (by omega), max_eq_right (by omega), max_eq_right (by omega)]

/-- `Peek(n)` answers the field (R111). -/
theorem peek_ok {pos n : Nat} (h : s.readable pos n) : s.peek pos n = .ok (s.field pos n) := by
  rw [State.peek, if_neg (by have := h.1; omega), peekBits_ok h.2]
  simp

theorem peek_badWidth {pos n : Nat} (h : 32 < n) : s.peek pos n = .error (raiseAt .badWidth pos) := by
  simp [State.peek, h]

theorem peek_overrun {pos n : Nat} (hn : n ≠ 0) (hw : n ≤ 32) (h : s.limitBits < pos + n) :
    s.peek pos n = .error ⟨.overrun, max pos s.limitBits, pos⟩ := by
  rw [State.peek, if_neg (by omega), peekBits_overrun hn h]

theorem peekBits_error {pos n p v : Nat} {e : Raise} (h : s.peekBits pos n p v = .error e) :
    e.err = .overrun ∧ e.cursor = pos := by
  induction n generalizing p v with
  | zero => cases h
  | succ n ih =>
    rw [State.peekBits, bind_error] at h
    obtain h | ⟨b, -, h⟩ := h
    · unfold State.bitAt at h
      split at h <;> cases h
      exact ⟨rfl, rfl⟩
    · exact ih h

/-- Whatever `Peek(n)` raises is an error of the bit reader, with the cursor where it was (R111, R112). -/
theorem peek_error {pos n : Nat} {e : Raise} (h : s.peek pos n = .error e) :
    e.err.ofReader = true ∧ e.cursor = pos := by
  unfold State.peek at h
  split at h
  · cases h; exact ⟨rfl, rfl⟩
  · obtain ⟨he, hc⟩ := peekBits_error h
    exact ⟨by rw [he]; rfl, hc⟩

/-- `Peek(n)` succeeds only on a readable field. -/
theorem peek_inv {pos n v : Nat} (h : s.peek pos n = .ok v) : s.readable pos n ∧ v = s.field pos n := by
  by_cases hw : 32 < n
  · rw [peek_badWidth hw] at h; cases h
  · by_cases hr : n = 0 ∨ pos + n ≤ s.limitBits
    · have hr' : s.readable pos n := ⟨by omega, hr⟩
      rw [peek_ok hr'] at h
      exact ⟨hr', by cases h; rfl⟩
    · rw [peek_overrun (by omega) (by omega) (by omega)] at h; cases h

/-- `Read(n)` answers the field and the advanced position (R112). -/
theorem read_ok {pos n : Nat} (h : s.readable pos n) : s.read pos n = .ok (s.field pos n, pos + n) := by
  rw [State.read, peek_ok h, ok_bind, pure_eq_ok]

theorem read_inv {pos n : Nat} {r : Nat × Nat} (h : s.read pos n = .ok r) :
    s.readable pos n ∧ r = (s.field pos n, pos + n) := by
  rw [State.read, bind_ok] at h
  obtain ⟨v, hv, h⟩ := h
  obtain ⟨hr, rfl⟩ := peek_inv hv
  rw [pure_eq_ok] at h
  exact ⟨hr, by cases h; rfl⟩

/-- Whatever `Read(n)` raises leaves the cursor where it was (R112). -/
theorem read_error {pos n : Nat} {e : Raise} (h : s.read pos n = .error e) :
    e.err.ofReader = true ∧ e.cursor = pos := by
  rw [State.read, bind_error] at h
  obtain h | ⟨_, -, h⟩ := h
  · exact peek_error h
  · cases h

/-- `ReadSigned(n)` answers the sign-extended field (R113). -/
theorem readSigned_ok {pos n : Nat} (h : s.readable pos n) :
    s.readSigned pos n = .ok (sext n (s.field pos n), pos + n) := by
  rw [State.readSigned, read_ok h, ok_bind, pure_eq_ok]

theorem readSigned_inv {pos n : Nat} {r : Int × Nat} (h : s.readSigned pos n = .ok r) :
    s.readable pos n ∧ r = (sext n (s.field pos n), pos + n) := by
  rw [State.readSigned, bind_ok] at h
  obtain ⟨v, hv, h⟩ := h
  obtain ⟨hr, rfl⟩ := read_inv hv
  rw [pure_eq_ok] at h
  exact ⟨hr, by cases h; rfl⟩

/-- The bit reader reads its bits from `IN_BUF` only. -/
theorem field_congr {s t : State} (hb : s.inBuf = t.inBuf) (he : s.ramEpoch = t.ramEpoch)
    (pos n : Nat) : s.field pos n = t.field pos n := by
  have hbit : ∀ p, s.streamBit p = t.streamBit p := fun p => by
    unfold State.streamBit State.inByte
    rw [hb, he]
  induction n with
  | zero => rfl
  | succ n ih => rw [State.field, State.field, ih, hbit]

end Sys2Proof.Machine
end

