-- ==== Sys2Proof/Laws/Memory.lean ====
section
/-! SUPPORT. The laws of the byte memory: every write keeps the canonical form, a read after a write. -/

namespace Sys2Proof.Machine

theorem sortedFrom_mono {m : Memory} {lo lo' : Nat} (h : Memory.sortedFrom lo m = true) (hl : lo' ≤ lo) :
    Memory.sortedFrom lo' m = true := by
  cases m with
  | nil => rfl
  | cons e m =>
    obtain ⟨a, b⟩ := e
    simp only [Memory.sortedFrom, Bool.and_eq_true, decide_eq_true_eq] at h ⊢
    exact ⟨le_trans hl h.1, h.2⟩

theorem sortedFrom_put {m : Memory} {lo a : Nat} (b : Byte) (h : Memory.sortedFrom lo m = true) (hl : lo ≤ a) :
    Memory.sortedFrom lo (Memory.put m a b) = true := by
  induction m generalizing lo with
  | nil => simpa [Memory.put, Memory.sortedFrom] using hl
  | cons e m ih =>
    obtain ⟨k, x⟩ := e
    simp only [Memory.sortedFrom, Bool.and_eq_true, decide_eq_true_eq] at h
    simp only [Memory.put]
    split
    · rename_i hlt
      simp only [Memory.sortedFrom, Bool.and_eq_true, decide_eq_true_eq]
      exact ⟨hl, hlt, h.2⟩
    · split
      · rename_i hak
        simp only [Memory.sortedFrom, Bool.and_eq_true, decide_eq_true_eq]
        exact ⟨hl, hak ▸ h.2⟩
      · simp only [Memory.sortedFrom, Bool.and_eq_true, decide_eq_true_eq]
        exact ⟨h.1, ih h.2 (by omega)⟩

/-- A write of one byte keeps the canonical form. -/
theorem wf_put {m : Memory} (a : Nat) (b : Byte) (h : m.wf = true) : Memory.wf (Memory.put m a b) = true :=
  sortedFrom_put b h (Nat.zero_le a)

/-- A write of several bytes keeps the canonical form. -/
theorem wf_putBytes {m : Memory} (a : Nat) (bs : List Byte) (h : m.wf = true) :
    Memory.wf (Memory.putBytes m a bs) = true := by
  induction bs generalizing m a with
  | nil => exact h
  | cons b bs ih => exact ih (a + 1) (wf_put a b h)

theorem get?_below {m : Memory} {lo a : Nat} (h : Memory.sortedFrom lo m = true) (ha : a < lo) :
    Memory.get? m a = none := by
  induction m generalizing lo with
  | nil => rfl
  | cons e m ih =>
    obtain ⟨k, x⟩ := e
    simp only [Memory.sortedFrom, Bool.and_eq_true, decide_eq_true_eq] at h
    simp only [Memory.get?]
    rw [if_neg (by omega)]
    exact ih h.2 (by omega)

/-- A read after a write to the same address gives the value written. -/
@[simp] theorem get?_put_same (m : Memory) (a : Nat) (b : Byte) : Memory.get? (Memory.put m a b) a = some b := by
  induction m with
  | nil => simp [Memory.put, Memory.get?]
  | cons e m ih =>
    obtain ⟨k, x⟩ := e
    simp only [Memory.put]
    split
    · simp [Memory.get?]
    · split
      · simp [Memory.get?]
      · rename_i h1 h2
        simp only [Memory.get?]
        rw [if_neg (by omega)]
        exact ih

/-- A write leaves every other address alone. -/
theorem get?_put_other (m : Memory) {a a' : Nat} (b : Byte) (h : a' ≠ a) :
    Memory.get? (Memory.put m a b) a' = Memory.get? m a' := by
  induction m with
  | nil => simp [Memory.put, Memory.get?, Ne.symm h]
  | cons e m ih =>
    obtain ⟨k, x⟩ := e
    simp only [Memory.put]
    split
    · simp [Memory.get?, Ne.symm h]
    · split
      · rename_i h1 h2
        subst h2
        simp [Memory.get?, Ne.symm h]
      · simp only [Memory.get?, ih]

/-- Bytes outside the written range are unchanged. -/
theorem get?_putBytes_other (m : Memory) (a : Nat) (bs : List Byte) {a' : Nat}
    (h : a' < a ∨ a + bs.length ≤ a') : Memory.get? (Memory.putBytes m a bs) a' = Memory.get? m a' := by
  induction bs generalizing m a with
  | nil => rfl
  | cons b bs ih =>
    simp only [List.length_cons] at h
    simp only [Memory.putBytes]
    rw [ih _ _ (by omega), get?_put_other _ _ (by omega)]

/-- The bytes of the written range are those written. -/
theorem get?_putBytes_at (m : Memory) (a : Nat) (bs : List Byte) {i : Nat} (h : i < bs.length) :
    Memory.get? (Memory.putBytes m a bs) (a + i) = some bs[i] := by
  induction bs generalizing m a i with
  | nil => simp at h
  | cons b bs ih =>
    simp only [Memory.putBytes]
    cases i with
    | zero => rw [get?_putBytes_other _ _ _ (by omega)]; simp
    | succ i =>
      have := ih (Memory.put m a b) (a + 1) (i := i) (by simpa using h)
      rw [show a + (i + 1) = a + 1 + i by omega, this]
      simp

/-- Where the entries of a written memory lie. -/
theorem mem_put {m : Memory} {a : Nat} {b : Byte} {e : Host.Cell} (h : e ∈ Memory.put m a b) :
    e = (a, b) ∨ e ∈ m := by
  induction m with
  | nil => simpa [Memory.put] using h
  | cons x m ih =>
    obtain ⟨k, y⟩ := x
    simp only [Memory.put] at h
    split at h
    · simpa using h
    · split at h
      · simp only [List.mem_cons] at h ⊢
        rcases h with h | h
        · exact .inl h
        · exact .inr (.inr h)
      · simp only [List.mem_cons] at h ⊢
        rcases h with h | h
        · exact .inr (.inl h)
        · rcases ih h with h | h
          · exact .inl h
          · exact .inr (.inr h)

/-- Writing below a bound keeps every entry below it. -/
theorem bound_putBytes {m : Memory} {a n : Nat} {bs : List Byte} (hm : ∀ e ∈ m, e.1 < n) (ha : a + bs.length ≤ n) :
    ∀ e ∈ Memory.putBytes m a bs, e.1 < n := by
  induction bs generalizing m a with
  | nil => exact hm
  | cons b bs ih =>
    simp only [List.length_cons] at ha
    refine ih ?_ (by omega)
    intro e he
    rcases mem_put he with rfl | he
    · show a < n
      omega
    · exact hm e he

end Sys2Proof.Machine
end

