-- ==== Sys2Proof/Laws/PerInstr.lean ====
section
/-! SUPPORT. Statements made per command. `TableRow`: the encoding of a command lies in the command's own row of the
opcode map (R82), for every operand. -/

namespace Sys2Proof.Laws.TableRow

/-- The mnemonic of the command's row (R82). -/
def mnemonic : Instr → String
  | .nop => "NOP"
  | .init => "INIT"
  | .decodeFrame => "DECODE_FRAME"
  | .brPeek _ => "BR_PEEK"
  | .brRead _ => "BR_READ"
  | .brReadSigned _ => "BR_READ_SIGNED"
  | .brReadOb _ => "BR_READ_OB"
  | .brAlign => "BR_ALIGN"
  | .huffDecode _ => "HUFF_DECODE"
  | .parseHeader => "PARSE_HEADER"
  | .parseBand => "PARSE_BAND"
  | .parseGradient => "PARSE_GRADIENT"
  | .gradientBuild => "GRADIENT_BUILD"
  | .pmaskBuild _ => "PMASK_BUILD"
  | .precisionCalc _ => "PRECISION_CALC"
  | .sfDecode _ _ => "SF_DECODE"
  | .specDecode _ => "SPEC_DECODE"
  | .specFineDecode _ => "SPEC_FINE_DECODE"
  | .dequant _ => "DEQUANT"
  | .scale _ => "SCALE"
  | .imdct _ => "IMDCT"
  | .pcmOut => "PCM_OUT"

/-- The command's encoding matches the row of its mnemonic. -/
def Statement (i : Instr) : Prop :=
  ∃ r ∈ opcodeMap, r.mnemonic = mnemonic i ∧ matchesRow (encode i) r.mask r.matchBits = true

/-- A width field lies inside the bits the row's mask leaves free (R80). -/
theorem nBits_masked (n : Nat) : nBits n &&& 0xFFFF03FF = 0 := by
  have h : n % 64 < 64 := Nat.mod_lt _ (by decide)
  rw [nBits]
  generalize n % 64 = m at h ⊢
  interval_cases m <;> decide

/-- A table field lies inside the bits the row's mask leaves free (R80). -/
theorem tBits_masked (t : Nat) : tBits t &&& 0xFFF0FFFF = 0 := by
  have h : t % 16 < 16 := Nat.mod_lt _ (by decide)
  rw [tBits]
  generalize t % 16 = m at h ⊢
  interval_cases m <;> decide

theorem nop : Statement (.nop) :=
  ⟨⟨"NOP", 0xFFFFFFFF, 0x00000000⟩, by decide, rfl, by decide⟩

theorem init : Statement (.init) :=
  ⟨⟨"INIT", 0xFFFFFFFF, 0x00000001⟩, by decide, rfl, by decide⟩

theorem decodeFrame : Statement (.decodeFrame) :=
  ⟨⟨"DECODE_FRAME", 0xFFFFFFFF, 0x00000002⟩, by decide, rfl, by decide⟩

theorem brPeek (n : Nat) : Statement (.brPeek n) :=
  ⟨⟨"BR_PEEK", 0xFFFF03FF, 0x00000010⟩, by decide, rfl, by
    rw [matchesRow, encode, BitVec.and_or_distrib_right, nBits_masked]
    decide⟩

theorem brRead (n : Nat) : Statement (.brRead n) :=
  ⟨⟨"BR_READ", 0xFFFF03FF, 0x00000011⟩, by decide, rfl, by
    rw [matchesRow, encode, BitVec.and_or_distrib_right, nBits_masked]
    decide⟩

theorem brReadSigned (n : Nat) : Statement (.brReadSigned n) :=
  ⟨⟨"BR_READ_SIGNED", 0xFFFF03FF, 0x00000012⟩, by decide, rfl, by
    rw [matchesRow, encode, BitVec.and_or_distrib_right, nBits_masked]
    decide⟩

theorem brReadOb (n : Nat) : Statement (.brReadOb n) :=
  ⟨⟨"BR_READ_OB", 0xFFFF03FF, 0x00000013⟩, by decide, rfl, by
    rw [matchesRow, encode, BitVec.and_or_distrib_right, nBits_masked]
    decide⟩

theorem brAlign : Statement (.brAlign) :=
  ⟨⟨"BR_ALIGN", 0xFFFFFFFF, 0x00000014⟩, by decide, rfl, by decide⟩

theorem huffDecode (t : Nat) : Statement (.huffDecode t) :=
  ⟨⟨"HUFF_DECODE", 0xFFF0FFFF, 0x00000020⟩, by decide, rfl, by
    rw [matchesRow, encode, BitVec.and_or_distrib_right, tBits_masked]
    decide⟩

theorem parseHeader : Statement (.parseHeader) :=
  ⟨⟨"PARSE_HEADER", 0xFFFFFFFF, 0x00000030⟩, by decide, rfl, by decide⟩

theorem parseBand : Statement (.parseBand) :=
  ⟨⟨"PARSE_BAND", 0xFFFFFFFF, 0x00000031⟩, by decide, rfl, by decide⟩

theorem parseGradient : Statement (.parseGradient) :=
  ⟨⟨"PARSE_GRADIENT", 0xFFFFFFFF, 0x00000032⟩, by decide, rfl, by decide⟩

theorem gradientBuild : Statement (.gradientBuild) :=
  ⟨⟨"GRADIENT_BUILD", 0xFFFFFFFF, 0x00000033⟩, by decide, rfl, by decide⟩

theorem pmaskBuild (c : Chan) : Statement (.pmaskBuild c) :=
  ⟨⟨"PMASK_BUILD", 0xFFFFFEFF, 0x00000034⟩, by decide, rfl, by cases c <;> decide⟩

theorem precisionCalc (c : Chan) : Statement (.precisionCalc c) :=
  ⟨⟨"PRECISION_CALC", 0xFFFFFEFF, 0x00000035⟩, by decide, rfl, by cases c <;> decide⟩

theorem sfDecode (c : Chan) (l : LocalCh) : Statement (.sfDecode c l) :=
  ⟨⟨"SF_DECODE", 0xFFFFFCFF, 0x00000040⟩, by decide, rfl, by cases c <;> cases l <;> decide⟩

theorem specDecode (c : Chan) : Statement (.specDecode c) :=
  ⟨⟨"SPEC_DECODE", 0xFFFFFEFF, 0x00000050⟩, by decide, rfl, by cases c <;> decide⟩

theorem specFineDecode (c : Chan) : Statement (.specFineDecode c) :=
  ⟨⟨"SPEC_FINE_DECODE", 0xFFFFFEFF, 0x00000051⟩, by decide, rfl, by cases c <;> decide⟩

theorem dequant (c : Chan) : Statement (.dequant c) :=
  ⟨⟨"DEQUANT", 0xFFFFFEFF, 0x00000060⟩, by decide, rfl, by cases c <;> decide⟩

theorem scale (c : Chan) : Statement (.scale c) :=
  ⟨⟨"SCALE", 0xFFFFFEFF, 0x00000061⟩, by decide, rfl, by cases c <;> decide⟩

theorem imdct (c : Chan) : Statement (.imdct c) :=
  ⟨⟨"IMDCT", 0xFFFFFEFF, 0x00000070⟩, by decide, rfl, by cases c <;> decide⟩

theorem pcmOut : Statement (.pcmOut) :=
  ⟨⟨"PCM_OUT", 0xFFFFFFFF, 0x00000078⟩, by decide, rfl, by decide⟩

end Sys2Proof.Laws.TableRow
end

