-- ==== Sys2Proof/Laws/Rules.lean ====
section
/-! SUPPORT. What each rule can write: one lemma per rule, "if it succeeds, the new state is the old one but for these
cells". Later proofs cite these instead of unfolding a rule. -/

namespace Sys2Proof.Machine

/-- The cells no rule but `INIT` writes, and no error leaves unspecified (R276). -/
structure Kept (s t : State) : Prop where
  cfg : t.cfg = s.cfg
  ctrl : t.ctrl = s.ctrl
  status : t.status = s.status
  cmdLast : t.cmdLast = s.cmdLast
  arg : t.arg = s.arg
  inLen : t.inLen = s.inLen
  errPos : t.errPos = s.errPos
  errCmd : t.errCmd = s.errCmd
  hlut : t.hlut = s.hlut
  inBuf : t.inBuf = s.inBuf
  hostQueue : t.hostQueue = s.hostQueue
  hostData : t.hostData = s.hostData
  ramEpoch : t.ramEpoch = s.ramEpoch

theorem Kept.refl (s : State) : Kept s s := ⟨rfl, rfl, rfl, rfl, rfl, rfl, rfl, rfl, rfl, rfl, rfl, rfl, rfl⟩

theorem Kept.trans {s t u : State} (h : Kept s t) (k : Kept t u) : Kept s u :=
  ⟨k.1.trans h.1, k.2.trans h.2, k.3.trans h.3, k.4.trans h.4, k.5.trans h.5, k.6.trans h.6, k.7.trans h.7,
    k.8.trans h.8, k.9.trans h.9, k.10.trans h.10, k.11.trans h.11, k.12.trans h.12, k.13.trans h.13⟩

theorem kept_setChan (s : State) (c : Chan) (x : Channel) : Kept s (s.setChan c x) := by
  cases c <;> exact ⟨rfl, rfl, rfl, rfl, rfl, rfl, rfl, rfl, rfl, rfl, rfl, rfl, rfl⟩

theorem kept_setBrPos (s : State) (p : Nat) : Kept s (s.setBrPos p) :=
  ⟨rfl, rfl, rfl, rfl, rfl, rfl, rfl, rfl, rfl, rfl, rfl, rfl, rfl⟩

variable {s t : State} {c : Chan}

/-! ### Bit reader and Huffman -/

theorem brPeekRule_shape {n : Nat} (h : brPeekRule n s = .ok t) :
    s.readable s.brPos.toNat n ∧ t = { s with result := Word.ofNat (s.field s.brPos.toNat n) } := by
  rw [brPeekRule, bind_ok] at h
  obtain ⟨v, hv, h⟩ := h
  obtain ⟨hr, rfl⟩ := peek_inv hv
  exact ⟨hr, by cases h; rfl⟩

theorem brReadRule_shape {n : Nat} (h : brReadRule n s = .ok t) :
    s.readable s.brPos.toNat n ∧
    t = { s with result := Word.ofNat (s.field s.brPos.toNat n), brPos := Word.ofNat (s.brPos.toNat + n) } := by
  rw [brReadRule, bind_ok] at h
  obtain ⟨v, hv, h⟩ := h
  obtain ⟨hr, rfl⟩ := read_inv hv
  exact ⟨hr, by cases h; rfl⟩

theorem brReadSignedRule_shape {n : Nat} (h : brReadSignedRule n s = .ok t) :
    s.readable s.brPos.toNat n ∧
    t = { s with
      result := Word.ofInt (sext n (s.field s.brPos.toNat n))
      brPos := Word.ofNat (s.brPos.toNat + n) } := by
  rw [brReadSignedRule, bind_ok] at h
  obtain ⟨v, hv, h⟩ := h
  obtain ⟨hr, rfl⟩ := readSigned_inv hv
  exact ⟨hr, by cases h; rfl⟩

theorem alignPos_ok {m p : Nat} (h : m ≠ 0) : alignPos m p = .ok (alignUp m p) := by simp [alignPos, h]

theorem brAlignRule_shape (h : brAlignRule s = .ok t) :
    ∃ p k, t = { s with brPos := p, freeCtr := k } := by
  unfold brAlignRule at h
  split at h
  · cases h
  · rw [bind_ok] at h
    obtain ⟨p, -, h⟩ := h
    cases h
    split <;> exact ⟨_, _, rfl⟩

theorem huffAt_inv {pos k : Nat} {r : Int × Nat} (h : s.huffAt pos k = .ok r) :
    ∃ i, lutLookup (s.hlut.getD k []) (s.field pos (s.rom.huff k).maxb) = some i ∧
      s.readable pos (s.rom.huff k).maxb ∧
      r = (symbolValue (s.rom.huff k) i, pos + (s.rom.huff k).len i) := by
  unfold State.huffAt at h
  split at h
  · cases h
  · rw [bind_ok] at h
    obtain ⟨w, hw, h⟩ := h
    obtain ⟨hr, rfl⟩ := peek_inv hw
    split at h
    · cases h
    · rename_i i hi
      exact ⟨i, hi, hr, by cases h; rfl⟩

/-- Whatever `HuffDecode` raises leaves the cursor where it was (R133). -/
theorem huffAt_error {pos k : Nat} {e : Raise} (h : s.huffAt pos k = .error e) :
    e.err.ofReader = true ∧ e.cursor = pos := by
  unfold State.huffAt at h
  split at h
  · cases h; exact ⟨rfl, rfl⟩
  · rw [bind_error] at h
    obtain h | ⟨w, -, h⟩ := h
    · exact peek_error h
    · split at h <;> cases h
      exact ⟨rfl, rfl⟩

theorem huffDecodeRule_shape {k : Nat} (h : huffDecodeRule k s = .ok t) :
    ∃ r p, t = { s with result := r, brPos := p } := by
  rw [huffDecodeRule, bind_ok] at h
  obtain ⟨v, -, h⟩ := h
  cases h
  exact ⟨_, _, rfl⟩

/-! ### Field extraction -/

theorem parseHeaderRule_shape (h : parseHeaderRule s = .ok t) :
    ∃ srid fbits ccid flen fstat e p, s.rom.fbits srid = some fbits ∧ s.rom.ccid ccid = some e ∧
      s.field s.brPos.toNat 8 = s.rom.syncWord ∧ t = (setHeader srid fbits ccid flen fstat e s).setBrPos p := by
  unfold parseHeaderRule at h
  rw [bind_ok] at h
  obtain ⟨sync, hs, h⟩ := h
  obtain ⟨-, rfl⟩ := read_inv hs
  split at h
  · cases h
  · rename_i hne
    rw [bind_ok] at h
    obtain ⟨srid, -, h⟩ := h
    rw [bind_ok] at h
    obtain ⟨ccid, -, h⟩ := h
    rw [bind_ok] at h
    obtain ⟨flen, -, h⟩ := h
    rw [bind_ok] at h
    obtain ⟨fstat, -, h⟩ := h
    split at h
    · cases h
    · rename_i fb hfb
      split at h
      · cases h
      · rename_i e he
        refine ⟨srid.1, fb, ccid.1, flen.1, fstat.1, e, fstat.2, hfb, he, not_not.mp hne, ?_⟩
        cases h
        rfl

theorem kept_setHeader (a b d f g : Nat) (e : CcidEntry) (s : State) : Kept s (setHeader a b d f g e s) :=
  ⟨rfl, rfl, rfl, rfl, rfl, rfl, rfl, rfl, rfl, rfl, rfl, rfl, rfl⟩

theorem parseBandRule_shape (h : parseBandRule s = .ok t) :
    ∃ nb nqu p, s.rom.nquRom[nb]? = some nqu ∧
      t = { s with geom := { s.geom with nbands := BitVec.ofNat 8 nb, nqu := BitVec.ofNat 8 nqu }, brPos := p } := by
  unfold parseBandRule at h
  rw [bind_ok] at h
  obtain ⟨coded, -, h⟩ := h
  rw [bind_ok] at h
  obtain ⟨flag, -, h⟩ := h
  split at h
  · cases h
  · rename_i nqu hn
    refine ⟨_, nqu, Word.ofNat flag.2, hn, ?_⟩
    cases h
    rfl

theorem parseGradientRule_shape (h : parseGradientRule s = .ok t) :
    ∃ g0 g1 p, t = { s with gparam0 := g0, gparam1 := g1, brPos := p } := by
  unfold parseGradientRule at h
  rw [bind_ok] at h
  obtain ⟨gmode, -, h⟩ := h
  rw [bind_ok] at h
  obtain ⟨f, -, h⟩ := h
  rw [bind_ok] at h
  obtain ⟨gbnd, -, h⟩ := h
  cases h
  exact ⟨_, _, _, rfl⟩

/-! ### Gradient and precision -/

theorem gradientBuildRule_shape (h : gradientBuildRule s = .ok t) : ∃ g, t = { s with gradient := g } := by
  unfold gradientBuildRule at h
  simp only at h
  split at h
  · cases h
  · split at h
    · split at h
      · cases h
      · cases h; exact ⟨_, rfl⟩
    · cases h; exact ⟨_, rfl⟩

theorem pmaskBuildRule_shape (h : pmaskBuildRule c s = .ok t) :
    s.nqu ≤ 34 ∧ t = s.setChan c { s.chan c with pmask := pmaskOf (s.chan c).sf s.nqu } := by
  rw [pmaskBuildRule, bind_ok] at h
  obtain ⟨u, hu, h⟩ := h
  exact ⟨checkNqu_inv hu, by cases h; rfl⟩

theorem precisionCalcRule_shape (h : precisionCalcRule c s = .ok t) :
    ∃ p f, t = s.setChan c { s.chan c with prec := p, precf := f } := by
  rw [precisionCalcRule, bind_ok] at h
  obtain ⟨u, -, h⟩ := h
  split at h
  · cases h
  · cases h; exact ⟨_, _, rfl⟩

/-! ### Scale factors and spectrum -/

theorem sfDecodeRule_shape {l : LocalCh} (h : sfDecodeRule c l s = .ok t) :
    ∃ f k p, t = (s.setChan c { s.chan c with sf := f, sfcfg := k }).setBrPos p := by
  rw [sfDecodeRule, bind_ok] at h
  obtain ⟨u, -, h⟩ := h
  rw [bind_ok] at h
  obtain ⟨mode, -, h⟩ := h
  rw [bind_ok] at h
  obtain ⟨r, -, h⟩ := h
  cases h
  exact ⟨_, _, _, rfl⟩

theorem specDecodeRule_shape (h : specDecodeRule c s = .ok t) :
    ∃ q p, t = (s.setChan c { s.chan c with qspec := q }).setBrPos p := by
  rw [specDecodeRule, bind_ok] at h
  obtain ⟨u, -, h⟩ := h
  rw [bind_ok] at h
  obtain ⟨r, -, h⟩ := h
  cases h
  exact ⟨_, _, rfl⟩

theorem specFineDecodeRule_shape (h : specFineDecodeRule c s = .ok t) :
    ∃ q p, t = (s.setChan c { s.chan c with qspecf := q }).setBrPos p := by
  rw [specFineDecodeRule, bind_ok] at h
  obtain ⟨u, -, h⟩ := h
  rw [bind_ok] at h
  obtain ⟨r, -, h⟩ := h
  cases h
  exact ⟨_, _, rfl⟩

/-! ### Dequantizer, scaler, IMDCT, PCM -/

theorem dequantRule_shape (h : dequantRule c s = .ok t) : ∃ v, t = s.setChan c { s.chan c with spec := v } := by
  rw [dequantRule, bind_ok] at h
  obtain ⟨u, -, h⟩ := h
  rw [bind_ok] at h
  obtain ⟨r, -, h⟩ := h
  cases h
  exact ⟨_, rfl⟩

theorem scaleRule_shape (h : scaleRule c s = .ok t) : ∃ v, t = s.setChan c { s.chan c with spec := v } := by
  rw [scaleRule, bind_ok] at h
  obtain ⟨u, -, h⟩ := h
  rw [bind_ok] at h
  obtain ⟨r, -, h⟩ := h
  cases h
  exact ⟨_, rfl⟩

theorem imdctOn_ok {p : Lines} (h : sizeOk (s.chan c).mbits.toNat = true) :
    imdctOn c s p = .ok (overlapAdd s.rom (s.chan c).mbits.toNat
      (dct4 s.rom (s.chan c).mbits.toNat (s.chan c).spec) (s.chan c).pcm p) := by
  simp only [imdctOn, h, if_true]

theorem imdctOn_error {p : Lines} (h : sizeOk (s.chan c).mbits.toNat = false) :
    imdctOn c s p = .error (s.raiseHere .badSize) := by
  simp [imdctOn, h]

theorem imdctRule_shape (h : imdctRule c s = .ok t) :
    ∃ v p, t = s.setChan c { s.chan c with pcm := v, prev := p } := by
  rw [imdctRule, bind_ok] at h
  obtain ⟨r, -, h⟩ := h
  cases h
  exact ⟨_, _, rfl⟩

theorem imdctWorkRule_shape (h : imdctWorkRule c s = .ok t) :
    ∃ v p, t = s.setChan c { s.chan c with pcm := v, workPrev := p } := by
  rw [imdctWorkRule, bind_ok] at h
  obtain ⟨r, -, h⟩ := h
  cases h
  exact ⟨_, _, rfl⟩

/-- When `PCM_OUT` raises nothing, and what it then stores (R252). -/
theorem pcmOutRule_shape (h : pcmOutRule s = .ok t) :
    (s.geom.nch.toNat = 1 ∨ s.geom.nch.toNat = 2) ∧ sizeOk s.geom.fbits.toNat = true ∧
    s.outPtrByte + s.pcmBytes ≤ s.rom.outBufBytes ∧
    t = { s with
      outBuf := s.outBuf.putBytes s.outPtrByte s.pcmData
      outPtr := (Word.ofNat (s.outPtrByte + s.pcmBytes)).extractLsb' 2 30 } := by
  unfold pcmOutRule at h
  simp only at h
  split at h
  · cases h
  · split at h
    · cases h
    · split at h
      · cases h
      · rename_i h1 h2 h3
        exact ⟨not_not.mp h1, by simpa using h2, Nat.not_lt.mp h3, by cases h; rfl⟩

/-- With a channel count and a size class that it admits, `PCM_OUT` can raise `OUT_RANGE` only (R252). -/
theorem pcmOutRule_error {e : Raise} (hn : s.geom.nch.toNat = 1 ∨ s.geom.nch.toNat = 2)
    (hf : sizeOk s.geom.fbits.toNat = true) (h : pcmOutRule s = .error e) : e.err = .outRange := by
  unfold pcmOutRule at h
  simp only at h
  rw [if_neg (not_not.mpr hn), if_neg (by simp [hf])] at h
  split at h <;> cases h
  rfl

/-! ### What every rule keeps -/

/-- What a frame's sub-blocks keep: the cells of `Kept`, the output memory and pointer, and the overlap buffers (R256,
R259). -/
structure BodyKept (s t : State) : Prop where
  kept : Kept s t
  outBuf : t.outBuf = s.outBuf
  outPtr : t.outPtr = s.outPtr
  result : t.result = s.result
  bytesConsumed : t.bytesConsumed = s.bytesConsumed
  hdr : t.hdr = s.hdr
  flen : t.flen = s.flen
  freeCtr : t.freeCtr = s.freeCtr
  nch : t.geom.nch = s.geom.nch
  fbits : t.geom.fbits = s.geom.fbits
  prev : ∀ d, (t.chan d).prev = (s.chan d).prev

theorem BodyKept.refl (s : State) : BodyKept s s := ⟨Kept.refl s, rfl, rfl, rfl, rfl, rfl, rfl, rfl, rfl, rfl, fun _ => rfl⟩

theorem BodyKept.trans {s t u : State} (h : BodyKept s t) (k : BodyKept t u) : BodyKept s u :=
  ⟨h.1.trans k.1, k.2.trans h.2, k.3.trans h.3, k.4.trans h.4, k.5.trans h.5, k.6.trans h.6, k.7.trans h.7,
    k.8.trans h.8, k.9.trans h.9, k.10.trans h.10, fun d => (k.11 d).trans (h.11 d)⟩

theorem bodyKept_setChan {s : State} {c : Chan} {x : Channel} (hp : x.prev = (s.chan c).prev) :
    BodyKept s (s.setChan c x) := by
  cases c <;> exact ⟨⟨rfl, rfl, rfl, rfl, rfl, rfl, rfl, rfl, rfl, rfl, rfl, rfl, rfl⟩, rfl, rfl, rfl, rfl, rfl, rfl, rfl,
    rfl, rfl, fun d => by cases d <;> first | rfl | exact hp⟩

theorem bodyKept_setBrPos (s : State) (p : Nat) : BodyKept s (s.setBrPos p) :=
  ⟨kept_setBrPos s p, rfl, rfl, rfl, rfl, rfl, rfl, rfl, rfl, rfl, fun d => by cases d <;> rfl⟩

theorem bodyKept_channelBody {l : LocalCh} (h : channelBody c l s = .ok t) : BodyKept s t := by
  unfold channelBody at h
  rw [bind_ok] at h
  obtain ⟨s1, h1, h⟩ := h
  rw [bind_ok] at h
  obtain ⟨s2, h2, h⟩ := h
  rw [bind_ok] at h
  obtain ⟨s3, h3, h⟩ := h
  rw [bind_ok] at h
  obtain ⟨s4, h4, h⟩ := h
  rw [bind_ok] at h
  obtain ⟨s5, h5, h⟩ := h
  rw [bind_ok] at h
  obtain ⟨s6, h6, h⟩ := h
  rw [bind_ok] at h
  obtain ⟨s7, h7, h8⟩ := h
  have k1 : BodyKept s s1 := by
    obtain ⟨_, _, _, rfl⟩ := sfDecodeRule_shape h1
    refine .trans (bodyKept_setChan ?_) (bodyKept_setBrPos _ _)
    rfl
  have k2 : BodyKept s1 s2 := by
    obtain ⟨-, rfl⟩ := pmaskBuildRule_shape h2
    exact bodyKept_setChan rfl
  have k3 : BodyKept s2 s3 := by
    obtain ⟨_, _, rfl⟩ := precisionCalcRule_shape h3
    exact bodyKept_setChan rfl
  have k4 : BodyKept s3 s4 := by
    obtain ⟨_, _, rfl⟩ := specDecodeRule_shape h4
    refine .trans (bodyKept_setChan ?_) (bodyKept_setBrPos _ _)
    rfl
  have k5 : BodyKept s4 s5 := by
    obtain ⟨_, _, rfl⟩ := specFineDecodeRule_shape h5
    refine .trans (bodyKept_setChan ?_) (bodyKept_setBrPos _ _)
    rfl
  have k6 : BodyKept s5 s6 := by
    obtain ⟨_, rfl⟩ := dequantRule_shape h6
    exact bodyKept_setChan rfl
  have k7 : BodyKept s6 s7 := by
    obtain ⟨_, rfl⟩ := scaleRule_shape h7
    exact bodyKept_setChan rfl
  have k8 : BodyKept s7 t := by
    obtain ⟨_, _, rfl⟩ := imdctWorkRule_shape h8
    exact bodyKept_setChan rfl
  exact ((((((k1.trans k2).trans k3).trans k4).trans k5).trans k6).trans k7).trans k8

theorem bodyKept_channelLoop {chb b k l : Nat} (h : channelLoop chb b k l s = .ok t) : BodyKept s t := by
  induction k generalizing l s with
  | zero => cases h; exact BodyKept.refl _
  | succ k ih =>
    rw [channelLoop, bind_ok] at h
    obtain ⟨u, hu, h⟩ := h
    exact (bodyKept_channelBody hu).trans (ih h)

theorem bodyKept_subBlock {chb b : Nat} (h : subBlock chb b s = .ok t) : BodyKept s t := by
  unfold subBlock at h
  rw [bind_ok] at h
  obtain ⟨s1, h1, h⟩ := h
  rw [bind_ok] at h
  obtain ⟨s2, h2, h⟩ := h
  rw [bind_ok] at h
  obtain ⟨s3, h3, h⟩ := h
  rw [bind_ok] at h
  obtain ⟨s4, h4, h⟩ := h
  rw [bind_ok] at h
  obtain ⟨p, -, h⟩ := h
  have k0 : BodyKept s s3 := by
    obtain ⟨_, _, _, -, rfl⟩ := parseBandRule_shape h1
    obtain ⟨_, _, _, rfl⟩ := parseGradientRule_shape h2
    obtain ⟨_, rfl⟩ := gradientBuildRule_shape h3
    exact ⟨⟨rfl, rfl, rfl, rfl, rfl, rfl, rfl, rfl, rfl, rfl, rfl, rfl, rfl⟩, rfl, rfl, rfl, rfl, rfl, rfl, rfl, rfl, rfl,
      fun d => by cases d <;> rfl⟩
  cases h
  exact (k0.trans (bodyKept_channelLoop h4)).trans (bodyKept_setBrPos _ _)

theorem bodyKept_subBlockLoop {chb b k : Nat} (h : subBlockLoop chb k b s = .ok t) : BodyKept s t := by
  induction k generalizing b s with
  | zero => cases h; exact BodyKept.refl _
  | succ k ih =>
    rw [subBlockLoop, bind_ok] at h
    obtain ⟨u, hu, h⟩ := h
    exact (bodyKept_subBlock hu).trans (ih h)

theorem frameEnd_shape {start : Nat} (h : frameEnd start s = .ok t) :
    (s.brPos.toNat : Int) ≤ start + 8 * s.frameBytes ∧ t = { s with brPos := Word.ofInt (start + 8 * s.frameBytes) } := by
  unfold frameEnd at h
  simp only at h
  split at h
  · cases h
  · rename_i hn
    exact ⟨not_lt.mp hn, by cases h; rfl⟩

/-- The stages of a frame that ends without an error (R255): header, sub-blocks, frame end, output, commit. -/
theorem decodeFrameRule_stages (h : decodeFrameRule s = .ok t) :
    ∃ s1 s2 s3 s4, parseHeaderRule { s with bytesConsumed := 0 } = .ok s1 ∧
      subBlockLoop (snapshot s1).frameShape.chb (snapshot s1).frameShape.blocks 0 (snapshot s1) = .ok s2 ∧
      frameEnd s.brPos.toNat s2 = .ok s3 ∧ pcmOutRule s3 = .ok s4 ∧ t = commit s4 := by
  unfold decodeFrameRule at h
  simp only at h
  rw [bind_ok] at h
  obtain ⟨s1, h1, h⟩ := h
  rw [bind_ok] at h
  obtain ⟨s2, h2, h⟩ := h
  rw [bind_ok] at h
  obtain ⟨s3, h3, h⟩ := h
  rw [bind_ok] at h
  obtain ⟨s4, h4, h⟩ := h
  exact ⟨s1, s2, s3, s4, h1, h2, h3, h4, by cases h; rfl⟩

theorem mem_of_getD {α : Type} {l : List (Option α)} {i : Nat} {a : α} (h : l.getD i none = some a) : some a ∈ l := by
  rw [List.getD_eq_getElem?_getD] at h
  cases hi : l[i]? with
  | none => rw [hi] at h; cases h
  | some x =>
    rw [hi] at h
    obtain rfl : x = some a := h
    exact List.mem_of_getElem? hi

/-- What a well-formed configuration gives for a mapped selector: a size class of 7 or 8, and one or two channels (R6). -/
theorem header_maps {c : Config} (h : c.wf = true) :
    (∀ srid fb, c.fbits srid = some fb → fb = 7 ∨ fb = 8) ∧
    ∀ ccid e, c.ccid ccid = some e → e.nch = 1 ∨ e.nch = 2 := by
  simp only [Config.wf, Config.headerOk, Bool.and_eq_true, List.all_eq_true] at h
  refine ⟨fun srid fb hf => ?_, fun ccid e he => ?_⟩
  · simpa using h.1.1.1.1.1.1.1.1.1.2 _ (mem_of_getD hf)
  · have := h.1.1.1.1.1.1.1.1.2 _ (mem_of_getD he)
    simp only [Bool.and_eq_true, Bool.or_eq_true, beq_iff_eq] at this
    exact this.1

/-- Inside a frame `PCM_OUT` can raise `OUT_RANGE` only: the header has set a channel count and a size class that pass its
other checks (R244, R252). -/
theorem frame_pcmOut_error {s1 s2 s3 : State} {chb k b start : Nat} {e : Raise} (h1 : parseHeaderRule s = .ok s1)
    (h2 : subBlockLoop chb k b (snapshot s1) = .ok s2) (h3 : frameEnd start s2 = .ok s3)
    (h4 : pcmOutRule s3 = .error e) : e.err = .outRange := by
  obtain ⟨srid, fb, ccid, _, _, en, _, hfb, hen, -, rfl⟩ := parseHeaderRule_shape h1
  obtain ⟨-, rfl⟩ := frameEnd_shape h3
  have hb := bodyKept_subBlockLoop h2
  have hn : s2.geom.nch.toNat = 1 ∨ s2.geom.nch.toNat = 2 := by
    rw [show s2.geom.nch = BitVec.ofNat 2 en.nch from hb.nch]
    rcases (header_maps s.cfg.ok).2 _ _ hen with h | h <;> simp [h]
  have hf : sizeOk s2.geom.fbits.toNat = true := by
    rw [show s2.geom.fbits = BitVec.ofNat 4 fb from hb.fbits]
    rcases (header_maps s.cfg.ok).1 _ _ hfb with h | h <;> simp [h, sizeOk]
  refine pcmOutRule_error ?_ ?_ h4
  · exact hn
  · exact hf

end Sys2Proof.Machine
end

