-- ==== Sys2Proof/Laws/Step.lean ====
section
/-! SUPPORT. What a command and a step can do, said once: later proofs about every command cite `exec_ends` and
`step_next`. -/

namespace Sys2Proof.Machine

variable {s t : State} {c : Chan}

/-- What every command leaves alone, and how it ends (R240, R272, R276). `INIT` alone writes `HLUT` and `INIT_DONE`. -/
structure Ends (s t : State) : Prop where
  cfg : t.cfg = s.cfg
  ctrl : t.ctrl = s.ctrl
  cmdLast : t.cmdLast = s.cmdLast
  arg : t.arg = s.arg
  inLen : t.inLen = s.inLen
  inBuf : t.inBuf = s.inBuf
  hostQueue : t.hostQueue = s.hostQueue
  hostData : t.hostData = s.hostData
  ramEpoch : t.ramEpoch = s.ramEpoch
  hlut : t.hlut = s.hlut ∨ (t.hlut = buildLuts s.rom ∧ t.status = { s.status.complete with initDone := true })
  outWf : s.outBuf.wf = true → t.outBuf.wf = true
  outBound : (∀ e ∈ s.outBuf, e.1 < s.rom.outBufBytes) → ∀ e ∈ t.outBuf, e.1 < s.rom.outBufBytes
  status : (t.status = s.status.complete ∧ t.errPos = s.errPos ∧ t.errCmd = s.errCmd) ∨
    (t.status = { s.status.complete with initDone := true } ∧ t.hlut = buildLuts s.rom ∧ t.errPos = s.errPos ∧
      t.errCmd = s.errCmd) ∨
    ∃ e, t.status = s.status.raise e ∧ t.errCmd = s.cmdLast

/-- A rule, or what it leaves unspecified, keeps the cells of `Kept` and stores into `OUT_BUF` inside it only. -/
structure Keeps (s t : State) : Prop where
  kept : Kept s t
  outWf : s.outBuf.wf = true → t.outBuf.wf = true
  outBound : (∀ e ∈ s.outBuf, e.1 < s.rom.outBufBytes) → ∀ e ∈ t.outBuf, e.1 < s.rom.outBufBytes

theorem Keeps.of_outBuf (h : Kept s t) (ho : t.outBuf = s.outBuf) : Keeps s t :=
  ⟨h, fun hw => ho ▸ hw, fun hb => ho ▸ hb⟩

theorem BodyKept.keeps (h : BodyKept s t) : Keeps s t := .of_outBuf h.kept h.outBuf

theorem Keeps.trans {u : State} (h : Keeps s t) (k : Keeps t u) : Keeps s u := by
  refine ⟨h.kept.trans k.kept, fun hw => k.outWf (h.outWf hw), fun hb => ?_⟩
  have hc : t.rom = s.rom := congrArg ValidConfig.rom h.kept.cfg
  have := k.outBound
  rw [hc] at this
  exact this (h.outBound hb)

theorem kept_fields {s t : State} (h : t = { s with
    result := t.result, brPos := t.brPos, outPtr := t.outPtr, bytesConsumed := t.bytesConsumed, hdr := t.hdr
    flen := t.flen, geom := t.geom, gparam0 := t.gparam0, gparam1 := t.gparam1, gradient := t.gradient
    ch0 := t.ch0, ch1 := t.ch1, freeCtr := t.freeCtr, outBuf := s.outBuf }) : Keeps s t := by
  rw [h]
  exact .of_outBuf ⟨rfl, rfl, rfl, rfl, rfl, rfl, rfl, rfl, rfl, rfl, rfl, rfl, rfl⟩ rfl

theorem keeps_setChan (s : State) (c : Chan) (x : Channel) : Keeps s (s.setChan c x) := by
  cases c <;> exact kept_fields rfl

theorem keeps_setBrPos (s : State) (p : Nat) : Keeps s (s.setBrPos p) := kept_fields rfl

/-- How a command built from a rule ends. -/
theorem runCommand_ends {unspec : Raise → State → State} {rule : State → Except Raise State}
    (hu : ∀ e s, Keeps s (unspec e s)) (hr : ∀ {s u}, rule s = .ok u → Keeps s u)
    (h : runCommand unspec rule s = .next t) : Ends s t := by
  have fails : ∀ e : Raise, Ends s (s.fail unspec e) := fun e => by
    have k := hu e s
    refine ⟨k.kept.cfg, k.kept.ctrl, k.kept.cmdLast, k.kept.arg, k.kept.inLen, k.kept.inBuf, k.kept.hostQueue,
      k.kept.hostData, k.kept.ramEpoch, .inl k.kept.hlut, k.outWf, k.outBound, .inr (.inr ⟨e.err, ?_, ?_⟩)⟩
    · rw [fail_status, k.kept.status]
    · rw [fail_errCmd, k.kept.cmdLast]
  obtain ⟨u, -, hru, rfl⟩ | ⟨e, -, -, rfl⟩ | ⟨-, rfl⟩ := runCommand_cases h
  · have k := hr hru
    refine ⟨k.kept.cfg, k.kept.ctrl, k.kept.cmdLast, k.kept.arg, k.kept.inLen, k.kept.inBuf, k.kept.hostQueue,
      k.kept.hostData, k.kept.ramEpoch, .inl k.kept.hlut, k.outWf, k.outBound, .inl ⟨?_, k.kept.errPos, k.kept.errCmd⟩⟩
    rw [complete_status, k.kept.status]
  · exact fails e
  · exact fails _

/-! ### What each error leaves unspecified -/

theorem keeps_unspecPeek (e : Raise) (s : State) : Keeps s (unspecPeek e s) := kept_fields rfl

theorem keeps_unspecResult (e : Raise) (s : State) : Keeps s (unspecResult e s) := kept_fields rfl

theorem keeps_unspecAlign (e : Raise) (s : State) : Keeps s (unspecAlign e s) := kept_fields rfl

theorem keeps_gradient (s : State) (g : Units) : Keeps s { s with gradient := g } := kept_fields rfl

theorem keeps_unspecGradient (e : Raise) (s : State) : Keeps s (unspecGradient e s) := keeps_gradient s _

theorem keeps_refl (s : State) : Keeps s s := kept_fields rfl

theorem keeps_unspecHeader (e : Raise) (s : State) : Keeps s (unspecHeader e s) := by
  unfold unspecHeader
  split
  · exact keeps_refl s
  · exact kept_fields rfl

theorem wf_outBufAfter (e : Raise) (hw : s.outBuf.wf = true) : (s.outBufAfter e).wf = true := by
  unfold State.outBufAfter
  split
  · exact hw
  · exact wf_putBytes _ _ hw

theorem bound_outBufAfter (e : Raise) (hb : ∀ c ∈ s.outBuf, c.1 < s.rom.outBufBytes) :
    ∀ c ∈ s.outBufAfter e, c.1 < s.rom.outBufBytes := by
  unfold State.outBufAfter State.freeOutBuf
  split
  · exact hb
  · by_cases hp : s.outPtrByte ≤ s.rom.outBufBytes
    · refine bound_putBytes hb ?_
      rw [List.length_map, List.length_range]
      unfold State.frameRoom
      omega
    · have hn : s.frameRoom = 0 := by unfold State.frameRoom; omega
      simp only [hn, List.range_zero, List.map_nil, Memory.putBytes]
      exact hb

/-- A frame that fails leaves the bytes it cannot write (R276). -/
theorem outBufAfter_get? {a : Nat} (e : Raise) (h : a < s.outPtrByte ∨ s.outPtrByte + s.frameRoom ≤ a) :
    (s.outBufAfter e).get? a = s.outBuf.get? a := by
  unfold State.outBufAfter State.freeOutBuf
  split
  · rfl
  · rw [get?_putBytes_other]
    simpa using h

theorem keeps_unspecFrame (e : Raise) (s : State) : Keeps s (unspecFrame e s) := by
  unfold unspecFrame
  split
  · exact kept_fields rfl
  · exact ⟨⟨rfl, rfl, rfl, rfl, rfl, rfl, rfl, rfl, rfl, rfl, rfl, rfl, rfl⟩, wf_outBufAfter e, bound_outBufAfter e⟩

/-! ### Every rule keeps the cells of `Kept` -/

theorem keeps_brAlignRule (h : brAlignRule s = .ok t) : Keeps s t := by
  obtain ⟨p, k, rfl⟩ := brAlignRule_shape h
  exact kept_fields rfl

theorem keeps_gradientBuildRule (h : gradientBuildRule s = .ok t) : Keeps s t := by
  obtain ⟨g, rfl⟩ := gradientBuildRule_shape h
  exact keeps_gradient s g

theorem keeps_parseHeaderRule (h : parseHeaderRule s = .ok t) : Keeps s t := by
  obtain ⟨_, _, _, _, _, _, _, -, -, -, rfl⟩ := parseHeaderRule_shape h
  exact kept_fields rfl

theorem keeps_pcmOutRule (h : pcmOutRule s = .ok t) (hlen : s.pcmData.length = s.pcmBytes) : Keeps s t := by
  obtain ⟨-, -, hfit, rfl⟩ := pcmOutRule_shape h
  refine ⟨⟨rfl, rfl, rfl, rfl, rfl, rfl, rfl, rfl, rfl, rfl, rfl, rfl, rfl⟩, fun hw => wf_putBytes _ _ hw, fun hb => ?_⟩
  exact bound_putBytes hb (by rw [hlen]; exact hfit)

theorem length_leBytes (n : Nat) (w : Word) : (leBytes n w).length = n := by simp [leBytes]

theorem length_sampleData (s : State) (v : Word) : (sampleData s.ctrl.outFmt v).length = s.sampleBytes := by
  unfold sampleData State.sampleBytes
  split <;> exact length_leBytes _ _

/-- The PCM of a frame is NCH·N·sz bytes long (R252). -/
theorem length_pcmData (s : State) : s.pcmData.length = s.pcmBytes := by
  have hp : ∀ n, (s.framePoint n).length = s.geom.nch.toNat * s.sampleBytes := fun n => by
    rw [State.framePoint, List.length_flatMap]
    simp [length_sampleData]
  rw [State.pcmData, List.length_flatMap]
  simp [hp, State.pcmBytes]
  ring

theorem keeps_decodeFrameRule (h : decodeFrameRule s = .ok t) : Keeps s t := by
  obtain ⟨s1, s2, s3, s4, h1, h2, h3, h4, rfl⟩ := decodeFrameRule_stages h
  have k0 : Keeps s { s with bytesConsumed := 0 } := kept_fields rfl
  have k1 := k0.trans (keeps_parseHeaderRule h1)
  have k2 : Keeps s1 (snapshot s1) := kept_fields rfl
  have k3 := (bodyKept_subBlockLoop h2).keeps
  obtain ⟨-, e3⟩ := frameEnd_shape h3
  have k4 : Keeps s2 s3 := e3 ▸ kept_fields rfl
  have k5 := keeps_pcmOutRule h4 (length_pcmData s3)
  have k6 : Keeps s4 (commit s4) := kept_fields rfl
  exact ((((k1.trans k2).trans k3).trans k4).trans k5).trans k6

/-- An illegal command word, or an illegal operand, ends as R83 says. -/
theorem raiseIllegal_ends (s : State) : Ends s s.raiseIllegal :=
  ⟨rfl, rfl, rfl, rfl, rfl, rfl, rfl, rfl, rfl, .inl rfl, id, id, .inr (.inr ⟨.illegalCmd, rfl, rfl⟩)⟩

/-- How every command ends, and what it leaves alone. -/
theorem exec_ends {i : Instr} (h : exec i s = .next t) : Ends s t := by
  cases i with
  | nop => cases h; exact ⟨rfl, rfl, rfl, rfl, rfl, rfl, rfl, rfl, rfl, .inl rfl, id, id, .inl ⟨rfl, rfl, rfl⟩⟩
  | init =>
    cases h
    exact ⟨rfl, rfl, rfl, rfl, rfl, rfl, rfl, rfl, rfl, .inr ⟨rfl, rfl⟩, id, id, .inr (.inl ⟨rfl, rfl, rfl, rfl⟩)⟩
  | decodeFrame => exact runCommand_ends keeps_unspecFrame keeps_decodeFrameRule h
  | brPeek n =>
    exact runCommand_ends keeps_unspecPeek (fun hr => by obtain ⟨-, rfl⟩ := brPeekRule_shape hr; exact kept_fields rfl) h
  | brRead n =>
    exact runCommand_ends keeps_unspecResult (fun hr => by obtain ⟨-, rfl⟩ := brReadRule_shape hr; exact kept_fields rfl) h
  | brReadSigned n =>
    exact runCommand_ends keeps_unspecResult
      (fun hr => by obtain ⟨-, rfl⟩ := brReadSignedRule_shape hr; exact kept_fields rfl) h
  | brReadOb n =>
    exact runCommand_ends keeps_unspecResult (fun hr => by obtain ⟨-, rfl⟩ := brReadRule_shape hr; exact kept_fields rfl) h
  | brAlign => exact runCommand_ends keeps_unspecAlign keeps_brAlignRule h
  | huffDecode k =>
    simp only [exec, execHuffDecode] at h
    split at h
    · exact runCommand_ends keeps_unspecResult
        (fun hr => by obtain ⟨_, _, rfl⟩ := huffDecodeRule_shape hr; exact kept_fields rfl) h
    · cases h; exact raiseIllegal_ends s
  | parseHeader => exact runCommand_ends keeps_unspecHeader keeps_parseHeaderRule h
  | parseBand =>
    exact runCommand_ends (fun _ s => kept_fields rfl)
      (fun hr => by obtain ⟨_, _, _, -, rfl⟩ := parseBandRule_shape hr; exact kept_fields rfl) h
  | parseGradient =>
    exact runCommand_ends (fun _ s => kept_fields rfl)
      (fun hr => by obtain ⟨_, _, _, rfl⟩ := parseGradientRule_shape hr; exact kept_fields rfl) h
  | gradientBuild =>
    exact runCommand_ends keeps_unspecGradient keeps_gradientBuildRule h
  | pmaskBuild c =>
    exact runCommand_ends (fun _ s => keeps_setChan s c _)
      (fun hr => by obtain ⟨-, rfl⟩ := pmaskBuildRule_shape hr; exact keeps_setChan _ c _) h
  | precisionCalc c =>
    exact runCommand_ends (fun _ s => keeps_setChan s c _)
      (fun hr => by obtain ⟨_, _, rfl⟩ := precisionCalcRule_shape hr; exact keeps_setChan _ c _) h
  | sfDecode c l =>
    simp only [exec, execSfDecode] at h
    split at h
    · exact runCommand_ends (fun _ s => (keeps_setChan s c _).trans (kept_fields rfl))
        (fun hr => by
          obtain ⟨_, _, _, rfl⟩ := sfDecodeRule_shape hr
          exact (keeps_setChan _ c _).trans (keeps_setBrPos _ _)) h
    · cases h; exact raiseIllegal_ends s
  | specDecode c =>
    exact runCommand_ends (fun _ s => (keeps_setChan s c _).trans (kept_fields rfl))
      (fun hr => by
        obtain ⟨_, _, rfl⟩ := specDecodeRule_shape hr
        exact (keeps_setChan _ c _).trans (keeps_setBrPos _ _)) h
  | specFineDecode c =>
    exact runCommand_ends (fun _ s => (keeps_setChan s c _).trans (kept_fields rfl))
      (fun hr => by
        obtain ⟨_, _, rfl⟩ := specFineDecodeRule_shape hr
        exact (keeps_setChan _ c _).trans (keeps_setBrPos _ _)) h
  | dequant c =>
    exact runCommand_ends (fun _ s => keeps_setChan s c _)
      (fun hr => by obtain ⟨_, rfl⟩ := dequantRule_shape hr; exact keeps_setChan _ c _) h
  | scale c =>
    exact runCommand_ends (fun _ s => keeps_setChan s c _)
      (fun hr => by obtain ⟨_, rfl⟩ := scaleRule_shape hr; exact keeps_setChan _ c _) h
  | imdct c =>
    exact runCommand_ends (fun _ s => keeps_refl s)
      (fun hr => by obtain ⟨_, _, rfl⟩ := imdctRule_shape hr; exact keeps_setChan _ c _) h
  | pcmOut => exact runCommand_ends (fun _ s => keeps_refl s) (fun hr => keeps_pcmOutRule hr (length_pcmData _)) h

/-- A command always ends in a next state (R318). -/
theorem exec_next (i : Instr) (s : State) : ∃ t, exec i s = .next t := by
  cases i with
  | huffDecode k => simp only [exec, execHuffDecode]; split <;> exact ⟨_, rfl⟩
  | sfDecode c l => simp only [exec, execSfDecode]; split <;> exact ⟨_, rfl⟩
  | _ => exact ⟨_, rfl⟩

/-- What a step can be: nothing pending, or the first pending action (R71). -/
theorem step_next (h : step s = .next t) :
    (s.hostQueue = [] ∧ t = s) ∨ ∃ a rest, s.hostQueue = a :: rest ∧ act { s with hostQueue := rest } a = .next t := by
  unfold step at h
  split at h
  · rename_i hq; cases h; exact .inl ⟨hq, rfl⟩
  · rename_i a rest hq; exact .inr ⟨a, rest, hq, h⟩

/-- What a write to `CMD` can do: run or reject the word, or be ignored after a fatal error. While busy it has no step. -/
theorem submit_next {w : Word} (h : submit w s = .next t) :
    (∃ i, s.ready = true ∧ decodeWord w = some i ∧ exec i (s.accept w) = .next t) ∨
    (s.ready = true ∧ decodeWord w = none ∧ t = (s.accept w).raiseIllegal) ∨
    (s.status.busy = false ∧ s.status.fatal = true ∧ t = s) := by
  simp only [submit] at h
  split at h
  · rename_i hready
    simp only [runWord] at h
    split at h
    · rename_i hd; cases h; exact .inr (.inl ⟨hready, hd, rfl⟩)
    · rename_i i hd; exact .inl ⟨i, hready, hd, h⟩
  · rename_i hready
    split at h
    · cases h
    · rename_i hb
      cases h
      exact .inr (.inr ⟨by simpa using hb, by simpa [State.ready, hb] using hready, rfl⟩)

/-- What any other write can do: store while idle, or, to `STATUS` while busy, nothing. -/
theorem hostWrite_next {width : AccessWidth} {o : Nat} {w : Word} (h : hostWrite s width o w = .next t) :
    admitted s.rom width o = true ∧
    ((s.status.busy = false ∧ t = s.writeSpace width w (spaceAt o)) ∨
      (s.status.busy = true ∧ spaceAt o = .reg .status ∧ t = s)) := by
  simp only [hostWrite] at h
  split at h
  · cases h
  · rename_i ha
    refine ⟨by simpa using ha, ?_⟩
    split at h
    · rename_i hb
      split at h <;> cases h
      rename_i hs
      exact .inr ⟨hb, hs, rfl⟩
    · rename_i hb
      cases h
      exact .inl ⟨by simpa using hb, rfl⟩

/-- What an action can do: run a command, reject a word, be ignored, store, read, or reset. -/
theorem act_next {a : HostAction} (h : act s a = .next t) :
    (∃ w i, a = .write .w32 cmdOffset w ∧ s.ready = true ∧ decodeWord w = some i ∧ exec i (s.accept w) = .next t) ∨
    (∃ w, a = .write .w32 cmdOffset w ∧ s.ready = true ∧ decodeWord w = none ∧ t = (s.accept w).raiseIllegal) ∨
    ((∃ width o w, a = .write width o w) ∧ t = s) ∨
    (∃ width o w, a = .write width o w ∧ admitted s.rom width o.toNat = true ∧ s.status.busy = false ∧
      t = s.writeSpace width w (spaceAt o.toNat)) ∨
    (∃ d k, t = { s with hostData := d, freeCtr := k }) ∨ (a = .reset ∧ t = resetInput s) := by
  cases a with
  | read width o =>
    refine .inr (.inr (.inr (.inr (.inl ?_))))
    simp only [act, hostRead] at h
    split at h
    · cases h
    · split at h <;> cases h <;> exact ⟨_, _, rfl⟩
  | write width o w =>
    simp only [act] at h
    split at h
    · rename_i hc
      obtain ⟨rfl, rfl⟩ := hc
      obtain ⟨i, hr, hd, hx⟩ | ⟨hr, hd, rfl⟩ | ⟨-, -, rfl⟩ := submit_next h
      · exact .inl ⟨w, i, rfl, hr, hd, hx⟩
      · exact .inr (.inl ⟨w, rfl, hr, hd, rfl⟩)
      · exact .inr (.inr (.inl ⟨⟨_, _, _, rfl⟩, rfl⟩))
    · obtain ⟨ha, ⟨hb, rfl⟩ | ⟨-, -, rfl⟩⟩ := hostWrite_next h
      · exact .inr (.inr (.inr (.inl ⟨width, o, w, rfl, ha, hb, rfl⟩)))
      · exact .inr (.inr (.inl ⟨⟨_, _, _, rfl⟩, rfl⟩))
  | reset => cases h; exact .inr (.inr (.inr (.inr (.inr ⟨rfl, rfl⟩))))

end Sys2Proof.Machine
end

