-- ==== Sys2Proof/Tests/TestConfig.lean ====
section
/-! SUPPORT. The test configuration CFG-T of 95_test_vectors.md 95.0, "illustrative and non-normative": the tests' values
hold under it only, and no definition of the model takes a value from it. -/

namespace Sys2Proof.Tests

open Sys2Proof.Machine

/-- A fixed-length codebook: MAXB = BITS = b, CODES[i] = i (95.0). -/
def fixedTable (b : Nat) (sgn : Bool) : HuffTable := ⟨b, sgn, b, List.replicate (2 ^ b) b, List.range (2 ^ b)⟩

/-- Codebook V-H1, U(3) (95.0). -/
def tableU3 : HuffTable :=
  ⟨3, false, 4, [2, 2, 3, 3, 3, 4, 4, 0], [0b00, 0b01, 0b100, 0b101, 0b110, 0b1110, 0b1111, 0]⟩

/-- Codebook S(2) (95.0). -/
def tableS2 : HuffTable := ⟨2, true, 3, [1, 2, 0, 3], [0b0, 0b10, 0, 0b110]⟩

/-- NSPS of CFG-T: 2 ×4, 4 ×16, 8 ×8, 16 ×6 (95.0). -/
def nspsT : List Nat := List.replicate 4 2 ++ List.replicate 16 4 ++ List.replicate 8 8 ++ List.replicate 6 16

/-- The four base-3 digits of k, most significant first, packed as nibbles (95.0). -/
def joint4T (k : Nat) : Option Nat :=
  if k < 81 then some ((k / 27 % 3) * 64 + (k / 9 % 3) * 16 + (k / 3 % 3) * 4 + k % 3) else none

/-- CFG-T, with the default trigonometric and window tables given as rows (95.0). -/
def cfgTWith (tsin tcos : List (List Word)) (w7 w8 : List Word) : Config where
  syncWord := 0xAA
  sridBits := 3
  ccidBits := 2
  flenBits := 9
  fstatBits := 2
  flenOffset := 1
  flenAdj := 3
  fbitsOfSrid := [some 7, some 7, some 8, some 8, none, none, none, none]
  ccidRom := [some ⟨1, 1, 1⟩, some ⟨2, 2, 1⟩, some ⟨2, 1, 2⟩, none]
  bandBits := 4
  bandOffset := 2
  bandFlagBits := 1
  nquRom := [0, 4, 8, 10, 12, 14, 16, 18, 20, 22, 24, 25, 26, 28, 30, 32, 34]
  gsu0Bits := 6
  geu0Bits := 6
  geu0Offset := 1
  gsvBits := 5
  gevBits := 5
  gsu1Bits := 5
  gbndBits := 5
  gradM1EndUnit := 26
  sfOffsetBits := 5
  sfBBase := 2
  weightRom := (List.range 8).map (fun r => (List.range 34).map (fun i => i * r / 8))
  huffRom := [HuffTable.blank 0, HuffTable.blank 1, HuffTable.blank 2, tableU3, fixedTable 4 false, fixedTable 5 false,
    fixedTable 6 false] ++
    [HuffTable.blank 7, HuffTable.blank 8, tableS2, fixedTable 3 true, fixedTable 4 true, fixedTable 5 true]
  curveRom := (List.range 34).map (fun r => (List.range (r + 1)).map (fun k => (2 * k + 1) * 128 / (r + 1)))
  quRom := (List.range 34).map (fun i => ⟨(nspsT.take i).sum, nspsT.getD i 0⟩)
  joint2Rom := [some 0x5, some 0x4, some 0x6, some 0x1, some 0x9, some 0x0, some 0xA, none]
  joint4Rom := (List.range 256).map joint4T
  stepRom := (List.range 16).map (fun p => BitVec.ofNat 32 ((128 - p) <<< 23))
  fineStepRom := (List.range 16).map (fun p => BitVec.ofNat 32 ((112 - p) <<< 23))
  tsin := tsin
  tcos := tcos
  window7 := w7
  window8 := w8
  imdctScale7 := 0x3C800000
  imdctScale8 := 0x3C000000
  marginBytes := 4
  inBufBytes := 4096
  outBufBytes := 4096
  blockBase := 0

/-- CFG-T. -/
def cfgT : Config := cfgTWith tsinDefaultRows tcosDefaultRows (windowDefaultRow 7) (windowDefaultRow 8)

/-- CFG-T with all-zero trigonometric and window tables, for tests that do not run the IMDCT's arithmetic. -/
def cfgT0 : Config :=
  cfgTWith ((List.range 9).map (fun k => List.replicate (2 ^ k) 0)) ((List.range 9).map (fun k => List.replicate (2 ^ k) 0))
    (List.replicate 128 0) (List.replicate 256 0)

theorem cfgT0_wf : cfgT0.wf = true := by decide +kernel

theorem cfgT_wf : cfgT.wf = true := by decide +kernel

/-- CFG-T as a well-formed configuration. -/
def validT : ValidConfig := ⟨cfgT, cfgT_wf⟩

/-- CFG-T without its trigonometric and window tables. -/
def validT0 : ValidConfig := ⟨cfgT0, cfgT0_wf⟩

end Sys2Proof.Tests
end

