-- ==== Sys2Proof/Tests/Slice0.lean ====
section
/-! SUPPORT. Tests. Expected values are hand-written from the encodings of R80 to R82 or are those of
95_test_vectors.md under its configuration CFG-T; each test names its vector. -/

namespace Sys2Proof.Tests

set_option Elab.async false

open Sys2Proof.Machine

/-- R6, D3, C3: the defaults, which CFG-T keeps too. -/
theorem test_config_defaults :
    Config.witness.usesDefaultParameters = true ∧ cfgT0.usesDefaultParameters = true ∧ Config.witness.gradM1EndUnit = 26 ∧
    Config.witness.inBufBytes = 4096 ∧ Config.witness.outBufBytes = 4096 := by decide +kernel

/-! ### Decoding: a word written out from R80 and R82 for every command -/

/-- A command word by the fields of R80, from the top: zeros, `T`, `N`, `LCH`, `CH`, `OP`. -/
def word (t : BitVec 4) (n : BitVec 6) (lch ch : BitVec 1) (op : BitVec 8) : Word := 0b000000000000#12 ++ t ++ n ++ lch ++ ch ++ op

theorem test_decode_control :
    decodeWord (word 0b0000 0b000000 0 0 0b00000000) = some .nop ∧
    decodeWord (word 0b0000 0b000000 0 0 0b00000001) = some .init ∧
    decodeWord (word 0b0000 0b000000 0 0 0b00000010) = some .decodeFrame := by decide

theorem test_decode_bitReader :
    decodeWord (word 0b0000 0b001000 0 0 0b00010000) = some (.brPeek 8) ∧
    decodeWord (word 0b0000 0b100000 0 0 0b00010001) = some (.brRead 32) ∧
    decodeWord (word 0b0000 0b000001 0 0 0b00010010) = some (.brReadSigned 1) ∧
    decodeWord (word 0b0000 0b111111 0 0 0b00010011) = some (.brReadOb 63) ∧
    decodeWord (word 0b0000 0b000000 0 0 0b00010100) = some .brAlign := by decide

theorem test_decode_huffDecode :
    decodeWord (word 0b0011 0b000000 0 0 0b00100000) = some (.huffDecode 3) ∧
    decodeWord (word 0b1100 0b000000 0 0 0b00100000) = some (.huffDecode 12) := by decide

theorem test_decode_fields :
    decodeWord (word 0b0000 0b000000 0 0 0b00110000) = some .parseHeader ∧
    decodeWord (word 0b0000 0b000000 0 0 0b00110001) = some .parseBand ∧
    decodeWord (word 0b0000 0b000000 0 0 0b00110010) = some .parseGradient := by decide

theorem test_decode_precision :
    decodeWord (word 0b0000 0b000000 0 0 0b00110011) = some .gradientBuild ∧
    decodeWord (word 0b0000 0b000000 0 1 0b00110100) = some (.pmaskBuild .c1) ∧
    decodeWord (word 0b0000 0b000000 0 0 0b00110101) = some (.precisionCalc .c0) := by decide

theorem test_decode_sfDecode :
    decodeWord (word 0b0000 0b000000 0 0 0b01000000) = some (.sfDecode .c0 .l0) ∧
    decodeWord (word 0b0000 0b000000 0 1 0b01000000) = some (.sfDecode .c1 .l0) ∧
    decodeWord (word 0b0000 0b000000 1 1 0b01000000) = some (.sfDecode .c1 .l1) := by decide

theorem test_decode_spectrum :
    decodeWord (word 0b0000 0b000000 0 0 0b01010000) = some (.specDecode .c0) ∧
    decodeWord (word 0b0000 0b000000 0 1 0b01010001) = some (.specFineDecode .c1) ∧
    decodeWord (word 0b0000 0b000000 0 1 0b01100000) = some (.dequant .c1) ∧
    decodeWord (word 0b0000 0b000000 0 0 0b01100001) = some (.scale .c0) := by decide

theorem test_decode_output :
    decodeWord (word 0b0000 0b000000 0 1 0b01110000) = some (.imdct .c1) ∧
    decodeWord (word 0b0000 0b000000 0 0 0b01111000) = some .pcmOut := by decide

/-- Illegal words: a free opcode, a field the row does not have, T = 13, LCH = 1 with CH = 0 (R83). -/
theorem test_decode_illegal :
    decodeWord (word 0b0000 0b000000 0 0 0b00000011) = none ∧
    decodeWord (word 0b0000 0b000000 0 1 0b00000001) = none ∧
    decodeWord (word 0b0000 0b000001 0 0 0b00010100) = none ∧
    decodeWord (word 0b0001 0b000000 0 0 0b01110000) = none ∧
    decodeWord (word 0b1101 0b000000 0 0 0b00100000) = none ∧
    decodeWord (word 0b0000 0b000000 1 0 0b01000000) = none ∧
    decodeWord 0x80000011 = none := by decide

/-- A command is four bytes, least significant first (R64). -/
theorem test_decode_bytes :
    decodeBytes [0x11, 0x0C, 0x00, 0x00, 0xFF] = some (.brRead 3, [0xFF]) ∧ decodeBytes [0x11, 0x0C, 0x00] = none := by
  decide

/-- The host's numbering of a word is the word's own, and more bits than a word has are no command. -/
theorem test_decode_table_word :
    decodeTableWord 32 0x00000C11 = some (.brRead 3) ∧ decodeTableWord 32 0x100000011 = none := by decide

/-! ### Well-formedness: an ill-formed term for each check -/

theorem test_wellFormed_width :
    (Instr.brPeek 64).wellFormed = false ∧ (Instr.brRead 64).wellFormed = false ∧
    (Instr.brReadSigned 64).wellFormed = false ∧ (Instr.brReadOb 64).wellFormed = false ∧
    (Instr.brPeek 63).wellFormed = true := by decide

theorem test_wellFormed_table :
    (Instr.huffDecode 13).wellFormed = false ∧ (Instr.huffDecode 12).wellFormed = true := by decide

theorem test_wellFormed_channels :
    (Instr.sfDecode .c0 .l1).wellFormed = false ∧ (Instr.sfDecode .c0 .l0).wellFormed = true := by decide

/-- A configuration is refused when it breaks a constraint: a table that is not prefix-free, units that overlap, a sync
word wider than its field (R55, R130, R190). -/
theorem test_config_refused :
    ({ cfgT0 with huffRom := cfgT0.huffRom.set 3 ⟨3, false, 4, [1, 2, 3, 3, 3, 4, 4, 0], [0, 1, 4, 5, 6, 14, 15, 0]⟩ } : Config).wf
      = false ∧
    ({ cfgT0 with quRom := cfgT0.quRom.set 1 ⟨1, 2⟩ } : Config).wf = false ∧
    ({ cfgT0 with syncWord := 256 } : Config).wf = false := by decide +kernel

/-! ### Reset and the first step -/

/-- Each word the host asks about runs as the first step after reset (R23, R74). -/
theorem test_first_step_goes_on :
    goesOn (step (State.reset.withFetchWord 32 0x00000001)) = true ∧
    goesOn (step (State.reset.withFetchWord 32 0x00000002)) = true ∧
    goesOn (step (State.reset.withFetchWord 32 0x00000070)) = true ∧
    goesOn (step (State.reset.withFetchWord 32 0x00000003)) = true := by decide

/-! ### Helpers -/

/-- The state after a command. -/
def after (i : Instr) (s : State) : State :=
  match exec i s with
  | .next t => t
  | .fault _ => s
  | .refused _ => s

/-- The state after the next host action. -/
def stepped (s : State) : State :=
  match step s with
  | .next t => t
  | .fault _ => s
  | .refused _ => s

/-- What the host reads from `STATUS` after a command. -/
def statusOf (i : Instr) (s : State) : Word := (after i s).status.toWord

/-- CFG-T after `INIT`, with these bytes in `IN_BUF` from 0 on and this `IN_LEN`; the command is accepted. -/
def ready (bs : List Nat) (len : Nat) : State :=
  { State.resetWith validT0 0 with
    status := ⟨true, false, false, false, true, 0⟩
    hlut := buildLuts cfgT0
    inBuf := bs.zipIdx.map (fun e => (e.2, BitVec.ofNat 8 e.1))
    inLen := BitVec.ofNat 32 len }

/-- These values in the first cells of a unit array. -/
def units (l : List Int) : Units := Vector.ofFn (fun i => BitVec.ofInt 32 (l.getD i 0))

/-- These values in the first cells of a line array. -/
def lines (l : List Int) : Lines := Vector.ofFn (fun i => BitVec.ofInt 32 (l.getD i 0))

/-- The first cells of a unit array. -/
def firstUnits (n : Nat) (u : Units) : List Int := (List.range n).map (Units.int u)

/-- The first cells of a line array. -/
def firstLines (n : Nat) (u : Lines) : List Int := (List.range n).map (Lines.int u)

/-- The first cells of a line array, as bits. -/
def firstWords (n : Nat) (u : Lines) : List Word := (List.range n).map (Lines.at u)

/-- `GEOM` with this number of units. -/
def withUnits (n : Nat) (s : State) : State := { s with geom := { s.geom with nqu := BitVec.ofNat 8 n } }

/-! ### One instruction at a time -/

/-- R241: the flags of a word accepted before `INIT`. -/
theorem test_nop : statusOf .nop (State.resetWith validT0 0) = 0x02 := by decide +kernel

/-- R242, R131: slots of codebook V-H1; the third symbol's code 100 covers slots 8 and 9. -/
theorem test_init :
    statusOf .init (State.resetWith validT0 0) = 0x12 ∧
    (let h := (after .init (State.resetWith validT0 0)).hlut.getD 3 []
     lutLookup h 7 = some 1 ∧ lutLookup h 8 = some 2 ∧ lutLookup h 9 = some 2 ∧ lutLookup h 10 = some 3 ∧
     lutLookup h 15 = some 6) := by decide +kernel

/-- V-BR 1: peek 8 bits of B4 0F at bit 4. -/
theorem test_brPeek :
    let s := { ready [0xB4, 0x0F] 2 with brPos := 4 }
    (after (.brPeek 8) s).result = 0x40 ∧ (after (.brPeek 8) s).brPos = 4 := by decide +kernel

/-- V-BR 2: read 3 bits. -/
theorem test_brRead :
    (after (.brRead 3) (ready [0xB4, 0x0F] 2)).result = 5 ∧ (after (.brRead 3) (ready [0xB4, 0x0F] 2)).brPos = 3 := by
  decide +kernel

/-- V-BR 9: a read past the limit is `OVERRUN` at bit 40, the cursor kept. -/
theorem test_brRead_overrun :
    let s := { ready [0xFF] 1 with brPos := 36 }
    statusOf (.brRead 8) s = 0x71E ∧ (after (.brRead 8) s).errPos = 40 ∧ (after (.brRead 8) s).brPos = 36 := by
  decide +kernel

/-- V-BR 3: read 3 bits, sign-extended. -/
theorem test_brReadSigned :
    (after (.brReadSigned 3) (ready [0xB4, 0x0F] 2)).result = 0xFFFFFFFD ∧
    (after (.brReadSigned 3) (ready [0xB4, 0x0F] 2)).brPos = 3 := by decide +kernel

/-- V-BR 7: 32 bits with the top bit set. -/
theorem test_brReadSigned_wide :
    (after (.brReadSigned 32) (ready [0x80, 0, 0, 1, 0xFF] 5)).result = 0x80000001 := by decide +kernel

/-- V-BR 5. -/
theorem test_brReadOb :
    (after (.brReadOb 3) (ready [0xB4, 0x0F] 2)).result = 5 ∧
    (after (.brReadOb 3) (ready [0xB4, 0x0F] 2)).brPos = 3 := by decide +kernel

/-- V-BR 13, 15: align 3 to 8, 5 to 3. -/
theorem test_brAlign :
    (after .brAlign { ready [] 0 with brPos := 3, arg := 8 }).brPos = 8 ∧
    (after .brAlign { ready [] 0 with brPos := 5, arg := 3 }).brPos = 6 := by decide +kernel

/-- V-BR 16, 17: a multiple of 0, or above 2^31. -/
theorem test_brAlign_width :
    statusOf .brAlign { ready [] 0 with brPos := 5, arg := 0 } = 0x21E ∧
    statusOf .brAlign { ready [] 0 with brPos := 5, arg := 0x80000001 } = 0x21E := by decide +kernel

/-- V-H: table U(3) at 1001…, table S(2) at 110…. -/
theorem test_huffDecode :
    (after (.huffDecode 3) (ready [0x9F, 0, 0, 0, 0, 0] 1)).result = 2 ∧
    (after (.huffDecode 3) (ready [0x9F, 0, 0, 0, 0, 0] 1)).brPos = 3 ∧
    (after (.huffDecode 9) (ready [0xC0, 0, 0, 0, 0, 0] 1)).result = 0xFFFFFFFF := by decide +kernel

/-- V-H: no code of S(2) starts 111; table 0 is empty; a window across the limit, even for a shorter code. -/
theorem test_huffDecode_errors :
    statusOf (.huffDecode 9) (ready [0xE0, 0, 0, 0, 0, 0] 1) = 0x41E ∧
    statusOf (.huffDecode 0) (ready [0xE0, 0, 0, 0, 0, 0] 1) = 0x31E ∧
    statusOf (.huffDecode 3) { ready [0, 0, 0, 0, 0, 0] 1 with brPos := 38 } = 0x71E := by decide +kernel

/-- V-FR: header AA 51 1D. -/
theorem test_parseHeader :
    let t := after .parseHeader (ready [0xAA, 0x51, 0x1D] 3)
    t.hdr = ⟨2, 2, 1⟩ ∧ t.flen = 72 ∧ t.geom = ⟨2, 8, 0, 0⟩ ∧ t.ch1.mbits = 8 ∧ t.brPos = 24 := by decide +kernel

/-- A word other than the sync word is `SYNC`, recoverable, and `BR_POS` stays (R246). -/
theorem test_parseHeader_sync :
    let s := { ready [0x00, 0xAA, 0x51] 3 with brPos := 4 }
    statusOf .parseHeader s = 0x116 ∧ (after .parseHeader s).brPos = 4 ∧ (after .parseHeader s).flen = 0 := by
  decide +kernel

/-- V-FR2: coded count 6. -/
theorem test_parseBand :
    let t := after .parseBand (ready [0b01100000] 1)
    t.geom.nbands = 8 ∧ t.geom.nqu = 20 ∧ t.brPos = 5 := by decide +kernel

/-- V-FR2 row 2: a count without an entry. -/
theorem test_parseBand_range : statusOf .parseBand (ready [0b11111000] 1) = 0x61E := by decide +kernel

/-- V-FR3: mode 1 has fixed end values. -/
theorem test_parseGradient :
    let t := after .parseGradient (ready [0b01000110, 0b10100110, 0] 3)
    t.gparam0.toWord = 0x0C1A0301 ∧ t.gparam1.toWord = 0x1F0A ∧ t.brPos = 17 := by decide +kernel

/-- V-FR3 row 2: mode 0. -/
theorem test_parseGradient_direct :
    let t := after .parseGradient (ready [0b00000000, 0b00011111, 0b10011100, 0] 4)
    t.gparam0.toWord = 0x00080000 ∧ t.gparam1.toWord = 0x1C1C ∧ t.brPos = 29 := by decide +kernel

/-- V-G 2: a falling curve, with a floor of a negative product. -/
theorem test_gradientBuild :
    let t := after .gradientBuild { ready [] 0 with gparam0 := ⟨0, 2, 4, 0⟩, gparam1 := ⟨10, 7⟩ }
    firstUnits 6 t.gradient = [-10, -10, -10, -8, -7, -7] ∧ Units.int t.gradient 33 = -7 := by decide +kernel

/-- V-G 6: an end unit above 34. -/
theorem test_gradientBuild_range :
    statusOf .gradientBuild { ready [] 0 with gparam0 := ⟨0, 0, 35, 0⟩, gparam1 := ⟨1, 1⟩ } = 0x61E := by decide +kernel

/-- V-PM 1. -/
theorem test_pmaskBuild :
    let s := withUnits 4 (ready [] 0)
    firstUnits 6 (after (.pmaskBuild .c0) { s with ch0 := { s.ch0 with sf := units [10, 20, 19, 12] } }).ch0.pmask =
      [0, 5, 5, 0, 0, 0] := by decide +kernel

/-- V-PM 2, in channel 1: a fall and a rise side by side. -/
theorem test_pmaskBuild_fall :
    let s := withUnits 3 (ready [] 0)
    firstUnits 4 (after (.pmaskBuild .c1) { s with ch1 := { s.ch1 with sf := units [30, 0, 30] } }).ch1.pmask =
      [5, 0, 5, 0] := by decide +kernel

/-- The start state of V-PR 4 to 7, with this mode. -/
def precisionStart (gmode : BitVec 8) : State :=
  let s := withUnits 4 (ready [] 0)
  { s with
    gparam0 := ⟨gmode, 0, 0, 1⟩
    gradient := Vector.replicate 34 (-2)
    ch0 := { s.ch0 with sf := units [40, 12, 5, -3] } }

/-- V-PR 4 and 5. -/
theorem test_precisionCalc :
    firstUnits 5 (after (.precisionCalc .c0) (precisionStart 0)).ch0.prec = [15, 10, 3, 1, 0] ∧
    firstUnits 5 (after (.precisionCalc .c0) (precisionStart 0)).ch0.precf = [24, 0, 0, 0, 0] ∧
    firstUnits 5 (after (.precisionCalc .c0) (precisionStart 1)).ch0.prec = [15, 5, 1, 1, 0] ∧
    firstUnits 5 (after (.precisionCalc .c0) (precisionStart 1)).ch0.precf = [5, 0, 0, 0, 0] := by decide +kernel

/-- V-PR 6 and 7. -/
theorem test_precisionCalc_modes :
    firstUnits 5 (after (.precisionCalc .c0) (precisionStart 2)).ch0.prec = [15, 3, 1, 1, 0] ∧
    firstUnits 5 (after (.precisionCalc .c0) (precisionStart 3)).ch0.prec = [10, 2, 1, 1, 0] := by decide +kernel

/-- V-SF1 (scheme A) and V-SF3′ (scheme B, weights). -/
theorem test_sfDecode :
    let a := after (.sfDecode .c0 .l0) (withUnits 4 (ready [0x0A, 0x0D, 0x9E, 0] 4))
    let b := after (.sfDecode .c0 .l0) (withUnits 4 (ready [0xA4, 0xFC, 0x54, 0] 4))
    firstUnits 5 a.ch0.sf = [13, 14, 16, 14, 0] ∧ a.brPos = 23 ∧ a.ch0.sfcfg = ⟨0, 3, 10, 0⟩ ∧
    firstUnits 5 b.ch0.sf = [11, 4, 8, 4, 0] ∧ b.brPos = 23 ∧ b.ch0.sfcfg = ⟨1, 3, 4, 7⟩ := by decide +kernel

/-- V-SF4 (scheme C): differences to channel 0. -/
theorem test_sfDecode_schemeC :
    let s := withUnits 4 (ready [0x8B, 0, 0, 0] 4)
    let t := after (.sfDecode .c1 .l1) { s with ch0 := { s.ch0 with sf := units [13, 14, 16, 14] } }
    firstUnits 5 t.ch1.sf = [13, 15, 15, 14, 0] ∧ t.brPos = 10 ∧ t.ch1.sfcfg = ⟨1, 2, 0, 0⟩ := by decide +kernel

/-- V-SP1. -/
theorem test_specDecode :
    let s := withUnits 4 (ready [0x57, 0x5E, 0x30] 8)
    let t := after (.specDecode .c0) { s with ch0 := { s.ch0 with prec := units [1, 1, 3, 2] } }
    firstLines 9 t.ch0.qspec = [0, 1, -1, -1, -3, 7, -4, 3, 0] ∧ t.brPos = 20 := by decide +kernel

/-- V-SP3: the `INVALID` joint code, recorded after its 3 bits. -/
theorem test_specDecode_joint :
    let s := withUnits 1 (ready [0xE0] 8)
    let u := { s with ch0 := { s.ch0 with prec := units [1] } }
    statusOf (.specDecode .c0) u = 0x51E ∧ (after (.specDecode .c0) u).errPos = 3 := by decide +kernel

/-- V-SP4. -/
theorem test_specFineDecode :
    let s := withUnits 4 (ready [0xFD, 0xF0] 8)
    let t := after (.specFineDecode .c0) { s with ch0 := { s.ch0 with precf := units [0, 0, 0, 5] } }
    firstLines 9 t.ch0.qspecf = [0, 0, 0, 0, 0, 0, -1, 31, 0] ∧ t.brPos = 12 := by decide +kernel

/-- The start state of V-DQ. -/
def dequantStart : State :=
  let s := withUnits 4 (ready [] 0)
  { s with ch0 := { s.ch0 with
      prec := units [1, 1, 3, 2]
      qspec := lines [0, 1, -1, -1, -3, 7, -4, 3]
      qspecf := lines [0, 0, 0, 0, 0, 0, -1, 31] } }

/-- V-DQ 1. -/
theorem test_dequant :
    firstWords 9 (after (.dequant .c0) dequantStart).ch0.spec =
      [0, 0x3F800000, 0xBF800000, 0xBF800000, 0xBF400000, 0x3FE00000, 0xC0000020, 0x3FC007C0, 0] := by decide +kernel

/-- V-DQ 2: −1.0 doubled in unit 1, −0.75 kept by the negative factor of unit 2, −2.0 × 4 in unit 3. -/
theorem test_scale :
    let s := withUnits 4 (ready [] 0)
    firstWords 8 (after (.scale .c0) { s with ch0 := { s.ch0 with
      sf := units [0, 25, -3, 26]
      spec := Vector.ofFn (fun n => [0x0, 0x3F800000, 0xBF800000, 0xBF800000, 0xBF400000, 0x3FE00000, 0xC0000020, 0x3FC007C0].getD
        n 0) } }).ch0.spec =
      [0, 0x3F800000, 0xC0000000, 0xC0000000, 0xBF400000, 0x3FE00000, 0xC1000020, 0x40C007C0] := by decide +kernel

/-- V-DQ 3. -/
theorem test_scale_range :
    let s := withUnits 4 (ready [] 0)
    statusOf (.scale .c0) { s with ch0 := { s.ch0 with sf := units [32] } } = 0x61E := by decide +kernel

/-- V-IM 6 and 7. -/
theorem test_imdct_size :
    let s := ready [] 0
    statusOf (.imdct .c0) { s with ch0 := { s.ch0 with mbits := 6 } } = 0xC1E ∧ statusOf (.imdct .c0) s = 0xC1E := by
  decide +kernel

/-- V-IM 1: cells 0 and 64 of the first overlap-add step, all inputs +0.0. -/
theorem test_imdct_overlap :
    let r := overlapStep cfgT 7 Lines.zero (Lines.zero, Lines.zero) 0
    Lines.at r.1 0 = 0 ∧ Lines.at r.1 64 = 0x80000000 ∧ Lines.at r.2 0 = 0x80000000 ∧ Lines.at r.2 64 = 0 := by
  decide +kernel

/-- V-PCM 1 to 4. -/
theorem test_sample :
    [0x40200000, 0xC0200000, 0x471C4000, 0xCE6E6B28, 0x7F800000].map fpToI16 = [3, -3, 32767, -32768, 32767] ∧
    [0x80000000, 0x7FC00000, 0x3EFFFFFF, 0xBFC00000].map fpToI16 = [0, 0, 0, -2] := by decide +kernel

/-- V-PCM 5, 7 and 8: the pointer and the bounds. -/
theorem test_pcmOut :
    let s := ready [] 0
    (after .pcmOut { s with geom := ⟨2, 7, 0, 0⟩ }).outPtrWord = 512 ∧
    (after .pcmOut { s with geom := ⟨1, 7, 0, 0⟩, outPtr := 960 }).outPtrWord = 4096 ∧
    statusOf .pcmOut { s with geom := ⟨2, 7, 0, 0⟩, outPtr := 897 } = 0xB1E ∧
    statusOf .pcmOut { s with geom := ⟨0, 7, 0, 0⟩ } = 0x61E ∧
    statusOf .pcmOut { s with geom := ⟨1, 9, 0, 0⟩ } = 0xC1E := by decide +kernel

/-- V-PCM 5 and 6: the first sample of both channels in both formats. -/
theorem test_pcmOut_format :
    let s := ready [] 0
    let u := { s with
      geom := ⟨2, 7, 0, 0⟩
      ch0 := { s.ch0 with pcm := Lines.put Lines.zero 0 0x3F800000 }
      ch1 := { s.ch1 with pcm := Lines.put Lines.zero 0 0xBF800000 } }
    u.framePoint 0 = [0x01, 0x00, 0xFF, 0xFF] ∧
    ({ u with ctrl := ⟨false, true⟩ } : State).framePoint 0 = [0x00, 0x00, 0x80, 0x3F, 0x00, 0x00, 0x80, 0xBF] := by
  decide +kernel

/-- Frame F1 (95, V-FR-M). -/
def frameOne : List Nat :=
  [0xAA, 0x00, 0x48, 0x00, 0x00, 0xFC, 0xE0, 0x0F, 0x00, 0x81, 0x78, 0x78, 0x84, 0xCB, 0xCF, 0x95, 0x43, 0x28, 0xD1,
    0x03, 0x90, 0x00]

/-- P3 row 2: the whole of frame F1. -/
theorem test_decodeFrame :
    let t := after .decodeFrame (ready frameOne 22)
    t.status.toWord = 0x12 ∧ t.brPos = 176 ∧ t.bytesConsumed = 22 ∧ t.outPtrWord = 256 ∧
    firstUnits 9 t.ch0.sf = [29, 29, 31, 30, 30, 29, 30, 30, 0] ∧
    firstLines 9 t.ch0.qspec = [1, 0, 1, 1, 5, -2, 3, -1, 1] := by decide +kernel

/-- P4 step 2 and P5: a bad sync byte, and a frame that overruns its length. -/
theorem test_decodeFrame_errors :
    statusOf .decodeFrame (ready (0 :: frameOne) 23) = 0x116 ∧
    statusOf .decodeFrame (ready (frameOne.set 2 0x3C) 22) = 0xA1E ∧
    (after .decodeFrame (ready (frameOne.set 2 0x3C) 22)).errPos = 168 := by decide +kernel

/-- P5: after `FRAME_OVERRUN` `OUT_PTR` and `OUT_BUF` are unchanged. Its variant: after `JOINT_INVALID`, at bit 104,
`OUT_PTR` is. `BYTES_CONSUMED` is 0 in both. -/
theorem test_decodeFrame_failed_output :
    statusOf .decodeFrame (ready (frameOne.set 12 0x87) 22) = 0x51E ∧
    (after .decodeFrame (ready (frameOne.set 12 0x87) 22)).errPos = 104 ∧
    (let s := { ready (frameOne.set 2 0x3C) 22 with outPtr := 5, outBuf := [(20, 0xA5)], bytesConsumed := 7 }
     let t := after .decodeFrame s
     t.outPtr = s.outPtr ∧ t.outBuf = s.outBuf ∧ t.bytesConsumed = 0) ∧
    (let s := { ready (frameOne.set 12 0x87) 22 with outPtr := 5, bytesConsumed := 7 }
     (after .decodeFrame s).outPtr = s.outPtr ∧ (after .decodeFrame s).bytesConsumed = 0) := by decide +kernel

/-- R112: where the first field of a command cannot be read (here `OVERRUN` at bit 40), the cursor stays. -/
theorem test_firstField_overrun :
    let s := { ready [] 1 with brPos := 40, geom := ⟨0, 0, 0, 1⟩ }
    ∀ i ∈ [Instr.decodeFrame, .parseHeader, .parseBand, .parseGradient, .sfDecode .c0 .l0],
      statusOf i s = 0x71E ∧ (after i s).brPos = 40 := by decide +kernel

/-- R112: the read that fails does not move the cursor, and the reads before it have: the band flag after the band count,
the offset after the mode and the selector of scheme A, the header's second field after the sync field; R133: the second
code of scheme A. -/
theorem test_laterField_overrun :
    (let s := { ready [0, 0, 0, 0, 0] 1 with brPos := 36, geom := ⟨0, 0, 0, 1⟩ }
     statusOf .parseBand s = 0x71E ∧ (after .parseBand s).brPos = 40 ∧
     statusOf (.sfDecode .c0 .l0) s = 0x71E ∧ (after (.sfDecode .c0 .l0) s).brPos = 39) ∧
    (let s := { ready [0, 0, 0, 0, 0xAA] 1 with brPos := 32 }
     (after .parseHeader s).brPos = 40 ∧ (after .decodeFrame s).brPos = 40) ∧
    (let s := { ready [0, 0, 0, 0, 0x08] 1 with brPos := 21, geom := ⟨0, 0, 0, 4⟩ }
     statusOf (.sfDecode .c0 .l0) s = 0x71E ∧ (after (.sfDecode .c0 .l0) s).brPos = 37) := by decide +kernel

/-- A frame whose sync field cannot be read, eight bytes before the end of `OUT_BUF`. -/
def unreadableFrame : State := { ready [] 1 with brPos := 33, outPtr := 1022, outBuf := [(4087, 0xA5)] }

/-- R276: the byte below `OUT_PTR` survives a frame that fails; no frame can write it. -/
theorem test_decodeFrame_failed_keepsOtherBytes :
    (after .decodeFrame unreadableFrame).outByte 4087 = 0xA5 := by decide +kernel

/-! ### Acceptance and the host's view -/

/-- V-FR4, V-FR7, V-FR11: `NOT_INIT`, and `ILLEGAL_CMD` after and before `INIT`. -/
theorem test_acceptance_errors :
    (stepped ((State.resetWith validT0 0).withFetchWord 32 0x11)).status.toWord = 0x90E ∧
    (stepped ({ ready [] 0 with status := ⟨false, true, false, false, true, 0⟩ }.withFetchWord 32 0x3)).status.toWord
      = 0x81E ∧
    (stepped ((State.resetWith validT0 0).withFetchWord 32 0x3)).status.toWord = 0x80E := by decide +kernel

/-- V-FR9: after a fatal error a command is ignored, `CMD_LAST` too. -/
theorem test_fatal_ignores :
    let s := stepped ((State.resetWith validT0 0).withFetchWord 32 0x3)
    (stepped (s.withFetchWord 32 0)).status = s.status ∧ (stepped (s.withFetchWord 32 0)).cmdLast = 3 := by
  decide +kernel

/-- V-PCM 11, and R36: a write to `OUT_PTR` drops bits [1:0]. -/
theorem test_host_outPtr :
    let s := { State.resetWith validT0 0 with hostQueue := [.write .w32 0x20 0x102, .read .w32 0x20] }
    (stepped (stepped s)).hostData = 0x100 := by decide +kernel

/-- R22: `ID` reads "LDAC". -/
theorem test_host_id :
    (stepped { State.resetWith validT0 0 with hostQueue := [.read .w32 0x0] }).hostData = 0x4C444143 := by decide +kernel

/-- R72: while busy a write to `ARG` or `CMD` has no step, and one to `STATUS` is ignored (R70). -/
theorem test_host_writesWhileBusy :
    let s (o : BitVec 18) : State :=
      { ready [] 0 with status := ⟨true, true, false, false, true, 0⟩, hostQueue := [.write .w32 o 2] }
    goesOn (step (s 0x10)) = false ∧ goesOn (step (s 0xC)) = false ∧ goesOn (step (s 0x8)) = true ∧
    (stepped (s 0x8)).status = (s 0x8).status := by decide +kernel

end Sys2Proof.Tests
end

