-- ==== Sys2Proof/Tests/Witnesses.lean ====
section
/-! SUPPORT. For every obligation with hypotheses, a concrete state and operands that meet all of them together, and for an
obligation of several clauses one for each. -/

namespace Sys2Proof.Tests

set_option Elab.async false

open Sys2Proof.Machine Sys2Proof.Claims

/-! ### States -/

/-- CFG-T after `INIT`, idle, with this host action next. -/
def asked (a : HostAction) : State :=
  { ready [0xB4, 0x0F] 2 with status := ⟨false, true, false, false, true, 0⟩, hostQueue := [a] }

/-- The same after a fatal `BAD_WIDTH`. -/
def askedFatal (a : HostAction) : State :=
  { asked a with status := ⟨false, true, true, true, true, 2⟩, errPos := 5, errCmd := 0x8411, cmdLast := 0x8411 }

/-- The same in a busy state, which no run reaches. -/
def busyAsked (a : HostAction) : State := { asked a with status := ⟨true, false, false, false, true, 0⟩ }

theorem exec_after (i : Instr) (s : State) : exec i s = .next (after i s) := by
  obtain ⟨t, h⟩ := exec_next i s
  simp [after, h]

/-! ### Command words and acceptance -/

theorem witness_DecodingAndEncodingAreInverse :
    (Instr.brRead 63).wellFormed = true ∧ (Instr.huffDecode 12).wellFormed = true ∧
    (Instr.sfDecode .c1 .l1).wellFormed = true ∧ decodeWord 0x000C0020 = some (.huffDecode 12) := by decide

theorem witness_StepRunsTheDecodedCommand :
    let s := asked (.write .w32 0x0000C 0x00000C11)
    writesCmd s 0x00000C11 [] ∧ s.status.busy = false ∧ s.status.fatal = false ∧
    decodeWord 0x00000C11 = some (.brRead 3) := ⟨rfl, rfl, rfl, by decide⟩

theorem witness_AnIllegalWordReportsIllegalCmd :
    let s := asked (.write .w32 0x0000C 0x000D0020)
    writesCmd s 0x000D0020 [] ∧ s.status.busy = false ∧ s.status.fatal = false ∧ decodeWord 0x000D0020 = none :=
  ⟨rfl, rfl, rfl, by decide⟩

theorem witness_TheBlockActsOnAcceptedCommandsOnly :
    (ready [] 0).hostQueue = [] ∧
    (let s := askedFatal (.write .w32 0x0000C 1)
     writesCmd s 1 [] ∧ s.status.busy = false ∧ s.status.fatal = true) ∧
    (let s := busyAsked (.write .w32 0x0000C 1)
     writesCmd s 1 [] ∧ s.status.busy = true) := ⟨rfl, ⟨rfl, rfl, rfl⟩, rfl, rfl⟩

/-- The reset, a command, and the write that would clear `ERR`. -/
theorem witness_FatalIsLatchedUntilReset :
    ∀ a ∈ [HostAction.reset, .write .w32 0x0000C 1, .write .w32 0x00008 6],
      (askedFatal a).status.fatal = true ∧ (askedFatal a).status.busy = false ∧ (askedFatal a).hostQueue = a :: [] ∧
      ∃ t, step (askedFatal a) = .next t := by
  intro a ha
  refine ⟨rfl, rfl, rfl, ?_⟩
  simp only [List.mem_cons, List.not_mem_nil, or_false] at ha
  rcases ha with rfl | rfl | rfl <;> exact ⟨_, rfl⟩

theorem witness_CommandsBeforeInitReportNotInit :
    Instr.decodeFrame.wellFormed = true ∧ Instr.decodeFrame ≠ .nop ∧ Instr.decodeFrame ≠ .init ∧
    (State.resetWith validT0 0).status.initDone = false := ⟨rfl, by decide, by decide, rfl⟩

theorem witness_EachCommandReportsOnlyTheErrorsListedForIt :
    let s := ready [0xB4] 1
    (Instr.brRead 33).wellFormed = true ∧ s.status.err = false ∧
    ∃ t, exec (.brRead 33) s = .next t ∧ t.status.err = true :=
  ⟨rfl, rfl, _, exec_after _ _, by decide +kernel⟩

theorem witness_TheInterruptFollowsDoneAndErr :
    (∃ t, exec .nop (ready [] 0) = .next t) ∧
    (let s := asked (.write .w32 0x00008 0x00000006)
     s.status.busy = false ∧ s.hostQueue = .write .w32 0x00008 0x00000006 :: []) ∧
    (let s := asked (.write .w32 0x00004 2)
     s.status.busy = false ∧ (2 : Word).getLsbD 0 = false ∧ s.hostQueue = .write .w32 0x00004 2 :: []) :=
  ⟨⟨_, rfl⟩, ⟨rfl, rfl⟩, rfl, by decide, rfl⟩

/-! ### Reset and the host's view -/

theorem witness_ResetSetsEveryRegister : (askedFatal .reset).hostQueue = .reset :: [] := rfl

/-- A register, the last word of `GRADIENT`, the last of a unit and of a line array, `SFCFG` and `MBITS` of channel 1. -/
theorem witness_ReadsReturnTheListedWords :
    let s (o : Nat) := asked (.read .w32 (BitVec.ofNat 18 o))
    (∀ o, (s o).status.busy = false ∧ (s o).hostQueue = .read .w32 (BitVec.ofNat 18 o) :: []) ∧
    (0x000, 0x4C444143) ∈ Claims.regWords (s 0x000) ∧ (0x02C, (s 0x02C).errCmd.toNat) ∈ Claims.regWords (s 0x02C) ∧
    (0x100 + 4 * 33 < 2 ^ 18 ∧ (s (0x100 + 4 * 33)).gradient[33]? = some 0) ∧
    ((0x0300, (s 0x4384).ch1.pmask) ∈ Claims.unitArrays ((s 0x4384).chan .c1) ∧
      0x4384 = Claims.windowBase .c1 + 0x0300 + 4 * 33 ∧ (s 0x4384).ch1.pmask[33]? = some 0) ∧
    ((0x1400, (s 0x57FC).ch1.prev) ∈ Claims.lineArrays ((s 0x57FC).chan .c1) ∧
      0x57FC = Claims.windowBase .c1 + 0x1400 + 4 * 255 ∧ (s 0x57FC).ch1.prev[255]? = some 0) ∧
    0x5800 = Claims.windowBase .c1 + 0x1800 ∧ 0x5804 = Claims.windowBase .c1 + 0x1804 ∧ 0x5804 < 2 ^ 18 := by
  refine ⟨fun _ => ⟨rfl, rfl⟩, ?_, ?_, ⟨by decide, rfl⟩, ⟨?_, rfl, rfl⟩, ⟨?_, rfl, rfl⟩, rfl, rfl, by decide⟩ <;>
    simp [Claims.regWords, Claims.unitArrays, Claims.lineArrays, State.chan]

/-- A register, an array's first and last element, `IN_LEN` below, at and above its cap; each write with its read after it. -/
theorem witness_WrittenWordsReadBackTruncatedToTheirFields :
    let read (o : Nat) : List HostAction := [.read .w32 (BitVec.ofNat 18 o)]
    let s (o : Nat) (w : Word) : State := { asked .reset with hostQueue := .write .w32 (BitVec.ofNat 18 o) w :: read o }
    (∀ o w, (s o w).status.busy = false ∧ (s o w).hostQueue = .write .w32 (BitVec.ofNat 18 o) w :: read o) ∧
    (0x020, 0xFFFFFFFC) ∈ Claims.storedBits ∧ (0x5804, 0xF) ∈ Claims.storedBits ∧
    Claims.inWritableArray 0x100 ∧ Claims.inWritableArray (0x4000 + 0x1000 + 4 * 255) ∧
    (4096 = if (s 0 0).rom.inBufBytes < 4097 then 4096 else 4097) ∧
    (4096 = if (s 0 0).rom.inBufBytes < 4096 then 0 else 4096) := by
  refine ⟨fun _ _ => ⟨rfl, rfl⟩, by simp [Claims.storedBits], by simp [Claims.storedBits], .inl ⟨0, by decide, rfl⟩,
    .inr (.inr ⟨.c1, 0x1000, 255, by simp, by decide, rfl⟩), by decide +kernel, by decide +kernel⟩

/-- A write to `STATUS`, idle and busy, and to the last word of `PREV`. -/
theorem witness_StatusIsWriteOneToClearAndReadOnlyWordsKeep :
    (asked (.write .w32 (BitVec.ofNat 18 0x008) 6)).hostQueue = .write .w32 (BitVec.ofNat 18 0x008) 6 :: [] ∧
    (busyAsked (.write .w32 (BitVec.ofNat 18 0x008) 6)).hostQueue = .write .w32 (BitVec.ofNat 18 0x008) 6 :: [] ∧
    (let s := asked (.write .w32 (BitVec.ofNat 18 0x57FC) 6)
     s.hostQueue = .write .w32 (BitVec.ofNat 18 0x57FC) 6 :: [] ∧ s.status.busy = false) ∧
    0x57FC = Claims.windowBase .c1 + 0x1400 + 4 * 255 := ⟨rfl, rfl, ⟨rfl, rfl⟩, rfl⟩

/-- The offsets just after the registers, after `GRADIENT`, after a unit array and after the last word of each window, the
last of each reserved stretch; as what a read or a write names. -/
theorem witness_unlistedOffsets :
    ∀ o ∈ [0x044, 0x188, 0x1FC, 0x200, 0x1FFC, 0x2088, 0x3808, 0x3FFC, 0x4388, 0x5808, 0x5FFC, 0x6000, 0xFFFC],
      Claims.unlisted o ∧ (asked (.read .w32 (BitVec.ofNat 18 o))).status.busy = false ∧
      (asked (.read .w32 (BitVec.ofNat 18 o))).hostQueue = .read .w32 (BitVec.ofNat 18 o) :: [] ∧
      (asked (.write .w32 (BitVec.ofNat 18 o) 6)).hostQueue = .write .w32 (BitVec.ofNat 18 o) 6 :: [] := by
  intro o ho
  refine ⟨?_, rfl, rfl, rfl⟩
  simp only [List.mem_cons, List.not_mem_nil, or_false] at ho
  refine ⟨by omega, by omega, by omega, ?_, ?_, ?_⟩
  · rintro (⟨i, hi, h⟩ | ⟨c, base, i, hb, hi, h⟩ | ⟨c, base, n, hb, hn, h⟩)
    · omega
    · simp only [List.mem_cons, List.not_mem_nil, or_false] at hb
      cases c <;> simp only [Claims.windowBase] at h <;> omega
    · simp only [List.mem_cons, List.not_mem_nil, or_false] at hb
      cases c <;> simp only [Claims.windowBase] at h <;> omega
  · rintro ⟨c, n, hn, h⟩
    cases c <;> simp only [Claims.windowBase] at h <;> omega
  · intro c
    cases c <;> simp only [Claims.windowBase] <;> omega

/-- A byte of `REG`, a misaligned word of `CHAN`, the first half-word beyond `IN_BUF`, a misaligned word of `OUT_BUF`, and,
while busy, the last word of `OUT_BUF`'s window. -/
theorem witness_AccessesThatBreakAHostDutyHaveNoStep :
    let s := asked .reset
    ((0 : BitVec 18).toNat < 0x200 ∧ 1 ≠ 4) ∧
    (0x2000 ≤ (0x5FFD : BitVec 18).toNat ∧ (0x5FFD : BitVec 18).toNat < 0x6000 ∧ (0x5FFD : BitVec 18).toNat % 4 ≠ 0) ∧
    (0x10000 ≤ (0x11000 : BitVec 18).toNat ∧ (0x11000 : BitVec 18).toNat < 0x20000 ∧
      0x10000 + s.rom.inBufBytes < (0x11000 : BitVec 18).toNat + 2) ∧
    (0x20000 ≤ (0x20002 : BitVec 18).toNat ∧ (0x20002 : BitVec 18).toNat % 4 ≠ 0) ∧
    (busyAsked (.write .w32 0x3FFFC 0)).hostQueue = [.write .w32 0x3FFFC 0] ∧
    (busyAsked (.write .w32 0x3FFFC 0)).status.busy = true ∧ (0x3FFFC : BitVec 18) ≠ 0x00008 := by decide +kernel

/-- The last byte of `IN_BUF`, its last half-word, the last word of `OUT_BUF`; each written and read. -/
theorem witness_HostAccessesReachTheBytesOfTheRams :
    let s := asked (.write .w8 (BitVec.ofNat 18 (0x10000 + 4095)) 0xA5)
    let r := asked (.read .w16 (BitVec.ofNat 18 (0x10000 + 4094)))
    let u := asked (.write .w32 (BitVec.ofNat 18 (0x20000 + 4092)) 0x12345678)
    let v := asked (.read .w32 (BitVec.ofNat 18 (0x20000 + 4092)))
    (s.status.busy = false ∧ 1 = widthBytes .w8 ∧ 4095 % 1 = 0 ∧ 4095 + 1 ≤ s.rom.inBufBytes ∧
      s.hostQueue = .write .w8 (BitVec.ofNat 18 (0x10000 + 4095)) 0xA5 :: []) ∧
    (r.status.busy = false ∧ 2 = widthBytes .w16 ∧ 4094 % 2 = 0 ∧ 4094 + 2 ≤ r.rom.inBufBytes ∧
      r.hostQueue = .read .w16 (BitVec.ofNat 18 (0x10000 + 4094)) :: []) ∧
    (u.status.busy = false ∧ 4 = widthBytes .w32 ∧ 4092 % 4 = 0 ∧ 4092 + 4 ≤ u.rom.outBufBytes ∧
      u.hostQueue = .write .w32 (BitVec.ofNat 18 (0x20000 + 4092)) 0x12345678 :: []) ∧
    v.status.busy = false ∧ 4092 + 4 ≤ v.rom.outBufBytes ∧
    v.hostQueue = .read .w32 (BitVec.ofNat 18 (0x20000 + 4092)) :: [] :=
  ⟨⟨rfl, rfl, rfl, by decide +kernel, rfl⟩, ⟨rfl, rfl, rfl, by decide +kernel, rfl⟩, ⟨rfl, rfl, rfl, by decide +kernel, rfl⟩,
    rfl, by decide +kernel, rfl⟩

/-! ### Control commands and the bit reader -/

theorem witness_InitIsIdempotent :
    ∃ t, exec .init (State.resetWith validT0 0) = .next t ∧
      ∃ t', exec .init (ready [] 0) = .next t' ∧ (ready [] 0).rom.huffRom = (State.resetWith validT0 0).rom.huffRom :=
  ⟨_, rfl, _, rfl, rfl⟩

/-- No bits at the limit, 32 bits up to the limit. -/
theorem witness_BitReadsReturnTheFieldMostSignificantBitFirst :
    let s := ready [0xB4, 0x0F] 2
    s.status.initDone = true ∧ cursor { s with brPos := 48 } + 0 ≤ s.limitBits ∧ 32 ≤ 32 ∧
    cursor { s with brPos := 16 } + 32 ≤ s.limitBits := by decide +kernel

/-- The least and the greatest width that is too wide, a field one bit too long. -/
theorem witness_BadWidthsAndOverrunsLeaveTheCursor :
    let s := { ready [0xB4, 0x0F] 2 with brPos := 41 }
    s.status.initDone = true ∧ Instr.brRead 33 ∈ [.brPeek 33, .brRead 33, .brReadSigned 33, .brReadOb 33] ∧ 32 < 33 ∧
    8 ≤ 32 ∧ s.limitBits < cursor s + 8 := by decide +kernel

theorem witness_ReadsAdvanceByTheirTotalWidth :
    (∃ t, exec (.brPeek 8) (ready [0xB4, 0x0F] 2) = .next t) ∧
    (∃ t, Claims.readsTo [3, 5] (ready [0xB4, 0x0F] 2) t) ∧
    (let s := ready [0xB4, 0x0F] 2
     let s' := ready [0xB4, 0xF0] 2
     s.brPos = s'.brPos ∧ (∀ j, j < 8 → inputBit s (cursor s + j) = inputBit s' (cursor s + j)) ∧
     s.status.err = false ∧ s'.status.err = false ∧
     (after (.brPeek 8) s).status.err = false ∧ (after (.brPeek 8) s').status.err = false) :=
  ⟨⟨_, exec_after _ _⟩,
   ⟨_, .brRead 3, _, .inl rfl, exec_after _ _, by decide +kernel, .brReadSigned 5, _, .inr (.inl rfl), exec_after _ _,
    by decide +kernel, rfl⟩,
   rfl, by decide +kernel, rfl, rfl, by decide +kernel, by decide +kernel⟩

/-- The greatest multiple; 0 and the least one that is too large. -/
theorem witness_AlignMovesToTheNextMultiple :
    (ready [] 0).status.initDone = true ∧
    (let s := { ready [] 0 with brPos := 5, arg := 0x80000000 }
     0 < s.arg.toNat ∧ s.arg.toNat ≤ 2 ^ 31 ∧ cursor s ≤ 1 * s.arg.toNat ∧ 1 * s.arg.toNat < 2 ^ 32) ∧
    ({ ready [] 0 with arg := 0 } : State).arg.toNat = 0 ∧
    2 ^ 31 < ({ ready [] 0 with arg := 0x80000001 } : State).arg.toNat := by decide +kernel

/-! ### Huffman codebooks -/

/-- Slot `w` of CFG-T's table `id` is symbol `i` exactly when R131 says so. -/
def slotOk (id w i : Nat) : Bool :=
  let t := cfgT0.huff id
  decide (lutLookup ((buildLuts cfgT0).getD id []) w = some i) ==
    (decide (i < 2 ^ t.vb) && t.len i != 0 && decide (t.code i * 2 ^ (t.maxb - t.len i) ≤ w) &&
      decide (w < (t.code i + 1) * 2 ^ (t.maxb - t.len i)))

theorem slotsT : ∀ id < 13, ∀ w < 2 ^ (cfgT0.huff id).maxb, ∀ i < 64, slotOk id w i = true := by decide +kernel

theorem symbolsT : ∀ id < 13, 2 ^ (cfgT0.huff id).vb ≤ 64 ∧ ∀ r ∈ (buildLuts cfgT0).getD id [], r.sym < 64 := by
  decide +kernel

theorem lutsHold_ready (bs : List Nat) (len : Nat) : lutsHold (ready bs len) := by
  intro id hid w hw i
  have hid' : id < 13 := by omega
  obtain ⟨hv, hs⟩ := symbolsT id hid'
  by_cases hi : i < 64
  · have h := slotsT id hid' w hw i hi
    simp only [slotOk, beq_iff_eq] at h
    have h' := Bool.eq_iff_iff.mp h
    simp only [decide_eq_true_eq, Bool.and_eq_true, bne_iff_ne] at h'
    rw [and_assoc] at h'
    exact h'
  · constructor
    · intro h
      simp only [lutLookup, Option.map_eq_some_iff] at h
      obtain ⟨r, hr, rfl⟩ := h
      exact absurd (hs r (List.mem_of_find?_eq_some hr)) hi
    · intro h
      exact absurd (Nat.lt_of_lt_of_le h.1.1 hv) hi

theorem lutsHold_of {s t : State} (h : lutsHold s) (hc : t.cfg = s.cfg) (hl : t.hlut = s.hlut) : lutsHold t := by
  simpa only [lutsHold, State.rom, hc, hl] using h

/-- The longest code of U(3) at the last place where its window is readable. -/
theorem witness_HuffmanCodesDecodeToTheirSymbols :
    let s := { ready [0, 0, 0, 0, 0x0F] 1 with brPos := 36 }
    s.status.initDone = true ∧ lutsHold s ∧ 3 ≤ 12 ∧ usedSymbol (s.rom.huff 3) 6 ∧
    cursor s + (s.rom.huff 3).maxb ≤ s.limitBits ∧
    s.field (cursor s) ((s.rom.huff 3).len 6) = (s.rom.huff 3).code 6 := by
  refine ⟨rfl, lutsHold_of (lutsHold_ready [0, 0, 0, 0, 0x0F] 1) rfl rfl, by decide, ?_, by decide +kernel, by decide +kernel⟩
  unfold usedSymbol
  decide +kernel

/-- The window 111 of S(2) lies in no used symbol's slots. -/
theorem noSymbolCoversSeven : ∀ i < 4, (cfgT0.huff 9).len i ≠ 0 → ¬covers (cfgT0.huff 9) i 7 := by
  unfold covers
  decide +kernel

/-- An empty table, a window one bit too long, the window 111 of S(2). -/
theorem witness_HuffmanErrorsLeaveTheCursor :
    let s := { ready [0, 0, 0, 0, 0x0F] 1 with brPos := 37 }
    let u := ready [0xE0, 0, 0, 0, 0] 1
    (s.status.initDone = true ∧ lutsHold s ∧ ∀ b ∈ (s.rom.huff 0).bits, b = 0) ∧
    ((∃ b ∈ (s.rom.huff 3).bits, b ≠ 0) ∧ s.limitBits < cursor s + (s.rom.huff 3).maxb) ∧
    u.status.initDone = true ∧ lutsHold u ∧ (∃ b ∈ (u.rom.huff 9).bits, b ≠ 0) ∧
    cursor u + (u.rom.huff 9).maxb ≤ u.limitBits ∧
    ∀ i, usedSymbol (u.rom.huff 9) i → ¬covers (u.rom.huff 9) i (u.field (cursor u) (u.rom.huff 9).maxb) := by
  refine ⟨⟨rfl, lutsHold_of (lutsHold_ready [0, 0, 0, 0, 0x0F] 1) rfl rfl, by decide +kernel⟩, by decide +kernel, rfl,
    lutsHold_ready _ _, by decide +kernel, by decide +kernel, ?_⟩
  have hf : (ready [0xE0, 0, 0, 0, 0] 1).field (cursor (ready [0xE0, 0, 0, 0, 0] 1))
      ((ready [0xE0, 0, 0, 0, 0] 1).rom.huff 9).maxb = 7 := by decide +kernel
  intro i hi
  rw [hf]
  exact noSymbolCoversSeven i hi.1 hi.2

/-! ### Field extraction -/

/-- V-FR1 row 4, and the unmapped srid of row 3, each header ending at the limit; a sync field and a header that end one
bit beyond it. -/
theorem witness_ParseHeaderStoresTheHeaderFields :
    let s := { ready [0xAA, 0x51, 0x1D] 0 with brPos := 0 }
    let u := ready [0xAA, 0x80, 0x00] 0
    let x := { ready [0, 0, 0, 0, 0x55] 1 with brPos := 33 }
    let y := { ready [0, 0, 0x55, 0x28, 0x8E] 1 with brPos := 17 }
    s.status.initDone = true ∧ 24 = cursor s + 8 + s.rom.sridBits + s.rom.ccidBits + s.rom.flenBits + s.rom.fstatBits ∧
    24 ≤ s.limitBits ∧ s.field (cursor s) 8 = s.rom.syncWord ∧ s.rom.fbits (s.field 8 s.rom.sridBits) = some 8 ∧
    s.rom.ccid (s.field 11 s.rom.ccidBits) = some ⟨2, 1, 2⟩ ∧
    u.field (cursor u) 8 = u.rom.syncWord ∧ u.rom.fbits (u.field 8 u.rom.sridBits) = none ∧
    x.limitBits < cursor x + 8 ∧ y.field (cursor y) 8 = y.rom.syncWord ∧
    y.limitBits < cursor y + 24 := by decide +kernel

/-- A sync field that ends at the limit. -/
theorem witness_ASyncErrorConsumesNothing :
    let s := { ready [0xAA, 0, 0, 0, 0x55] 1 with brPos := 32 }
    s.status.initDone = true ∧ cursor s + 8 ≤ s.limitBits ∧ s.field (cursor s) 8 ≠ s.rom.syncWord := by decide +kernel

/-- The last count with an entry, and the first without; a flag just beyond the limit. -/
theorem witness_ParseBandStoresBandAndUnitCounts :
    let s := ready [0b11100000] 1
    let u := ready [0b11111000] 1
    let x := { s with brPos := 36 }
    s.status.initDone = true ∧ (s.rom.bandBits ≤ 32 ∧ cursor s + s.rom.bandBits ≤ s.limitBits) ∧
    (s.rom.bandFlagBits ≤ 32 ∧ cursor s + s.rom.bandBits + s.rom.bandFlagBits ≤ s.limitBits) ∧
    s.rom.nquRom[s.field (cursor s) s.rom.bandBits + s.rom.bandOffset]? = some 34 ∧
    u.rom.nquRom[u.field (cursor u) u.rom.bandBits + u.rom.bandOffset]? = none ∧
    0 < x.rom.bandBits + x.rom.bandFlagBits ∧
    x.limitBits < cursor x + x.rom.bandBits + x.rom.bandFlagBits := by decide +kernel

/-- Mode 0 and mode 3; mode 0 with its last bit beyond the limit. -/
theorem witness_ParseGradientStoresTheGradientFields :
    let s := ready [0b00000000, 0b00011111, 0b10011100, 0] 4
    let u := ready [0b11000110, 0b10100110, 0] 3
    let x := { ready [] 1 with brPos := 12, inBuf := [(0, 0), (1, 0), (2, 0), (3, 0), (4, 0)] }
    s.status.initDone = true ∧ s.field (cursor s) 2 = 0 ∧
    2 + s.rom.gsu0Bits + s.rom.geu0Bits + s.rom.gsvBits + s.rom.gevBits + s.rom.gbndBits ≤ s.limitBits ∧
    u.status.initDone = true ∧ u.field (cursor u) 2 ≠ 0 ∧ u.rom.usesDefaultParameters = true ∧
    2 + u.rom.gsu1Bits + u.rom.gsvBits + u.rom.gbndBits ≤ u.limitBits ∧
    x.status.initDone = true ∧ x.field (cursor x) 2 = 0 ∧
    x.limitBits < cursor x + 2 + x.rom.gsu0Bits + x.rom.geu0Bits + x.rom.gsvBits + x.rom.gevBits + x.rom.gbndBits := by
  decide +kernel

/-! ### Gradient and precision -/

/-- The widest curve; an end unit one too far; a curve row the configuration lacks. -/
theorem witness_GradientBuildComputesTheCurve :
    let s := { ready [] 0 with gparam0 := ⟨0, 0, 34, 0⟩, gparam1 := ⟨3, 31⟩ }
    s.status.initDone = true ∧ s.gparam0.geu.toNat ≤ 34 ∧ s.gparam0.gsu.toNat < s.gparam0.geu.toNat ∧
    s.gparam0.geu.toNat - s.gparam0.gsu.toNat - 1 < s.rom.curveSpans ∧
    34 < ({ s with gparam0 := ⟨0, 0, 35, 0⟩ } : State).gparam0.geu.toNat ∧
    Config.witness.wf = true ∧ Config.witness.curveSpans ≤ 34 - 0 - 1 := by decide +kernel

theorem witness_PmaskBuildAddsTheStepsBetweenFactors :
    (withUnits 34 (ready [] 0)).status.initDone = true ∧ (withUnits 34 (ready [] 0)).geom.nqu.toNat ≤ 34 ∧
    34 < (withUnits 35 (ready [] 0)).geom.nqu.toNat := by decide +kernel

/-- Both error conditions, and a precision above 15 in a state within the premise. -/
theorem witness_PrecisionCalcSplitsThePrecision :
    let s := precisionStart 3
    s.status.initDone = true ∧ s.geom.nqu.toNat ≤ 34 ∧ s.gparam0.gmode.toNat ≤ 3 ∧ 3 < s.geom.nqu.toNat ∧
    Claims.precisionSum s .c0 0 < 2 ^ 31 - 1 ∧ 15 < Claims.precisionOf (precisionStart 0) .c0 0 ∧
    3 < (precisionStart 4).gparam0.gmode.toNat ∧ 34 < (withUnits 35 s).geom.nqu.toNat := by decide +kernel

/-! ### Scale factors -/

/-- V-SF1: three codes of U(3), 01, 100 and 1111; and V-SF5, no unit at all. -/
theorem witness_SchemeADecodesChainedDifferences :
    (let s := withUnits 4 (ready [0x0A, 0x0D, 0x9E, 0] 4)
     s.status.initDone = true ∧ lutsHold s ∧ s.geom.nqu.toNat ≤ 34 ∧ s.field (cursor s) 1 = 0 ∧
     3 = s.field (cursor s + 1) 2 + 3 ∧ 8 = cursor s + 3 + s.rom.sfOffsetBits ∧ 8 + 3 + 3 ≤ s.limitBits ∧
     0 < s.geom.nqu.toNat ∧ [1, 2, 6].length + 1 = s.geom.nqu.toNat ∧ codesAt s 3 [1, 2, 6] (8 + 3 + 3) 23) ∧
    (let s := withUnits 0 (ready [0x0A, 0] 4)
     s.status.initDone = true ∧ lutsHold s ∧ s.geom.nqu.toNat = 0 ∧ s.field (cursor s) 1 = 0 ∧
     8 + 3 ≤ s.limitBits) := by
  refine ⟨⟨rfl, lutsHold_of (lutsHold_ready [0x0A, 0x0D, 0x9E, 0] 4) rfl rfl, by decide +kernel, by decide +kernel,
    by decide +kernel, by decide +kernel, by decide +kernel, by decide +kernel, by decide +kernel, ?_⟩,
    rfl, lutsHold_of (lutsHold_ready [0x0A, 0] 4) rfl rfl, by decide +kernel, by decide +kernel, by decide +kernel⟩
  refine ⟨⟨?_, ?_⟩, ?_, ?_, ⟨?_, ?_⟩, ?_, ?_, ⟨?_, ?_⟩, ?_, ?_, ?_⟩ <;> first | decide +kernel | (change _ = _; decide +kernel)

/-- Too many units; the first value one bit beyond the limit; after one code, a second whose window ends one bit beyond it. -/
theorem witness_SchemeADecodesChainedDifferences_errors :
    34 < (withUnits 35 (ready [] 0)).geom.nqu.toNat ∧
    (let s := { withUnits 4 (ready [0, 0, 0, 0x02, 0x80] 1) with brPos := 27 }
     s.field (cursor s) 1 = 0 ∧ 0 < s.geom.nqu.toNat ∧
     s.limitBits < cursor s + 3 + s.rom.sfOffsetBits + 3 + (s.field (cursor s + 1) 2 + 3)) ∧
    (let s := { withUnits 4 (ready [0, 0, 0, 0, 0x08] 1) with brPos := 21 }
     s.field (cursor s) 1 = 0 ∧ 3 = s.field (cursor s + 1) 2 + 3 ∧ 35 = cursor s + 3 + s.rom.sfOffsetBits + 3 + 3 ∧
     lutsHold s ∧ 35 ≤ s.limitBits ∧ [1].length + 1 < s.geom.nqu.toNat ∧ codesAt s 3 [1] 35 37 ∧
     codeFails s 3 37 7 (max 37 s.limitBits)) := by
  refine ⟨by decide +kernel, by decide +kernel, by decide +kernel, by decide +kernel, by decide +kernel,
    lutsHold_of (lutsHold_ready [0, 0, 0, 0, 0x08] 1) rfl rfl, by decide +kernel, by decide +kernel, ?_,
    .inr (.inl ⟨by decide +kernel, by decide +kernel, rfl, rfl⟩)⟩
  refine ⟨⟨?_, ?_⟩, ?_, ?_, ?_⟩ <;> first | decide +kernel | (change _ = _; decide +kernel)

/-- V-SF2 (width 5, raw) and V-SF3 (width 3), each also with its last bit just beyond the limit. -/
theorem witness_SchemeBReadsFixedWidthFactors :
    (let s := withUnits 4 (ready [0xFF, 0x04, 0x4A, 0] 4)
     s.status.initDone = true ∧ s.geom.nqu.toNat ≤ 34 ∧ s.field (cursor s) 1 = 1 ∧
     5 = s.field (cursor s + 1) 2 + s.rom.sfBBase ∧ 4 < 5 ∧ cursor s + 3 + 5 * s.geom.nqu.toNat ≤ s.limitBits) ∧
    (let s := { withUnits 4 (ready [0, 0, 0x03, 0x80, 0] 1) with brPos := 22 }
     s.field (cursor s) 1 = 1 ∧ 5 = s.field (cursor s + 1) 2 + s.rom.sfBBase ∧
     s.limitBits < cursor s + 3 + 5 * s.geom.nqu.toNat) ∧
    (let s := withUnits 4 (ready [0xA4, 0x3C, 0x54, 0] 4)
     s.status.initDone = true ∧ s.geom.nqu.toNat ≤ 34 ∧ s.field (cursor s) 1 = 1 ∧
     3 = s.field (cursor s + 1) 2 + s.rom.sfBBase ∧ 3 ≤ 4 ∧
     cursor s + 3 + s.rom.sfOffsetBits + 3 + 3 * s.geom.nqu.toNat ≤ s.limitBits) ∧
    (let s := { withUnits 4 (ready [0, 0, 0x14, 0x80, 0] 1) with brPos := 19 }
     s.field (cursor s) 1 = 1 ∧ 3 = s.field (cursor s + 1) 2 + s.rom.sfBBase ∧
     s.limitBits < cursor s + 3 + s.rom.sfOffsetBits + 3 + 3 * s.geom.nqu.toNat) := by decide +kernel

/-- V-SF4: codes 0, 10, 110 and 0 of S(2). -/
theorem witness_SchemeCAddsDifferencesToChannelZero :
    let s := withUnits 4 (ready [0x8B, 0, 0, 0] 4)
    s.status.initDone = true ∧ lutsHold s ∧ s.geom.nqu.toNat ≤ 34 ∧ s.field (cursor s) 1 = 1 ∧
    2 = s.field (cursor s + 1) 2 + 2 ∧ cursor s + 3 ≤ s.limitBits ∧ [0, 1, 3, 0].length = s.geom.nqu.toNat ∧
    codesAt s (7 + 2) [0, 1, 3, 0] (cursor s + 3) 10 := by
  refine ⟨rfl, lutsHold_of (lutsHold_ready [0x8B, 0, 0, 0] 4) rfl rfl, by decide +kernel, by decide +kernel,
    by decide +kernel, by decide +kernel, by decide +kernel, ?_⟩
  refine ⟨⟨?_, ?_⟩, ?_, ?_, ⟨?_, ?_⟩, ?_, ?_, ⟨?_, ?_⟩, ?_, ?_, ⟨?_, ?_⟩, ?_, ?_, ?_⟩ <;> first | decide +kernel | (change _ = _; decide +kernel)

/-- A selector that ends one bit beyond the limit; the window 111 of S(2) in place of the first code. -/
theorem witness_SchemeCAddsDifferencesToChannelZero_errors :
    (let s := { withUnits 4 (ready [0, 0, 0, 0, 0x02] 1) with brPos := 38 }
     s.field (cursor s) 1 = 1 ∧ s.limitBits < cursor s + 3) ∧
    (let s := withUnits 1 (ready [0x9C, 0, 0, 0] 4)
     lutsHold s ∧ s.field (cursor s) 1 = 1 ∧ 2 = s.field (cursor s + 1) 2 + 2 ∧ cursor s + 3 ≤ s.limitBits ∧
     ([] : List Nat).length < s.geom.nqu.toNat ∧ codesAt s (7 + 2) [] (cursor s + 3) 3 ∧ codeFails s (7 + 2) 3 4 3) := by
  refine ⟨by decide +kernel, lutsHold_of (lutsHold_ready [0x9C, 0, 0, 0] 4) rfl rfl, by decide +kernel, by decide +kernel,
    by decide +kernel, by decide +kernel, rfl, .inr (.inr ⟨by decide +kernel, by decide +kernel, ?_, rfl, rfl⟩)⟩
  have hf : (withUnits 1 (ready [0x9C, 0, 0, 0] 4)).field 3 ((withUnits 1 (ready [0x9C, 0, 0, 0] 4)).rom.huff 9).maxb = 7 := by
    decide +kernel
  intro i hi
  rw [show 7 + 2 = 9 from rfl, hf]
  exact noSymbolCoversSeven i hi.1 hi.2

/-! ### Spectrum, dequantizer and scaler -/

/-- The start state of V-SP2: plain and joint units. -/
def spectrumStart : State :=
  let u := withUnits 5 (ready [0x29, 0xF1, 0x2E, 0xA0] 4)
  { u with ch0 := { u.ch0 with prec := units [2, 2, 2, 2, 1] } }

theorem specStart_decodes : specDecodes spectrumStart .c0 5 := by
  unfold specDecodes precInRange
  decide +kernel

theorem witness_SpecDecodeReadsEveryLine :
    let s := spectrumStart
    s.status.initDone = true ∧ s.geom.nqu.toNat ≤ 34 ∧ specDecodes s .c0 s.geom.nqu.toNat ∧
    31 = bitsBefore (specBits s .c0) s.geom.nqu.toNat ∧ cursor s + 31 ≤ s.limitBits :=
  ⟨rfl, by decide +kernel, specStart_decodes, by decide +kernel, by decide +kernel⟩

/-- The state with these bytes, no input length, `n` units of these precisions, and this cursor; the limit is 32. -/
def spectrumAt (n : Nat) (p : List Int) (bs : List Nat) (a : Word) : State :=
  let u := withUnits n (ready bs 0)
  { u with brPos := a, ch0 := { u.ch0 with prec := units p } }

/-- Too many units; after a unit that is read, precisions just outside 0..15, the first `INVALID` code of each kind, and a
plain unit that ends one bit beyond the limit. -/
theorem witness_SpecDecodeReadsEveryLine_errors :
    34 < (withUnits 35 (ready [] 0)).geom.nqu.toNat ∧
    (let s := spectrumAt 2 [2, -1] [0, 0, 0, 0] 26
     1 < s.geom.nqu.toNat ∧ specDecodes s .c0 1 ∧ specStart s .c0 1 = s.limitBits ∧ ¬precInRange s .c0 1) ∧
    (let s := spectrumAt 2 [2, 16] [0, 0, 0, 0] 26
     1 < s.geom.nqu.toNat ∧ specDecodes s .c0 1 ∧ specStart s .c0 1 = s.limitBits ∧ ¬precInRange s .c0 1) ∧
    (let s := spectrumAt 2 [2, 1] [0, 0, 0, 0x07] 23
     1 < s.geom.nqu.toNat ∧ specDecodes s .c0 1 ∧ 0 < s.rom.nsps 1 ∧ specValue s .c0 1 0 = none ∧
     jointEnd s .c0 1 0 = s.limitBits) ∧
    (let s := spectrumAt 5 [0, 0, 0, 0, 1] [0, 0, 0, 0x51] 25
     4 < s.geom.nqu.toNat ∧ specDecodes s .c0 4 ∧ 0 < s.rom.nsps 4 ∧ specValue s .c0 4 0 = none ∧
     jointEnd s .c0 4 0 = s.limitBits) ∧
    (let s := spectrumAt 2 [2, 2] [0, 0, 0, 0] 21
     1 < s.geom.nqu.toNat ∧ specDecodes s .c0 1 ∧ precInRange s .c0 1 ∧ cursor s < specStart s .c0 2 ∧
     s.limitBits < specStart s .c0 2 ∧
     ∀ j, j < s.rom.nsps 1 → jointEnd s .c0 1 j ≤ s.limitBits → specValue s .c0 1 j ≠ none) := by
  unfold specDecodes precInRange
  refine ⟨?_, ?_, ?_, ?_, ?_, ?_⟩ <;> decide +kernel

/-- V-SP4. -/
theorem witness_SpecFineDecodeReadsTheResiduals :
    let u := withUnits 4 (ready [0xFD, 0xF0] 8)
    let s := { u with ch0 := { u.ch0 with precf := units [0, 0, 0, 5] } }
    s.status.initDone = true ∧ s.geom.nqu.toNat ≤ 34 ∧
    (∀ i, i < s.geom.nqu.toNat → Units.int (s.chan .c0).precf i ≤ 15) ∧
    12 = bitsBefore (fineBits s .c0) s.geom.nqu.toNat ∧ cursor s + 12 ≤ s.limitBits := by decide +kernel

/-- Too many units; after a unit that is read up to the limit, a fine precision of 16; a unit that ends one bit beyond the
limit. -/
theorem witness_SpecFineDecodeReadsTheResiduals_errors :
    let u (f : List Int) (a : Word) : State :=
      let v := withUnits 2 (ready [0, 0, 0, 0] 0)
      { v with brPos := a, ch0 := { v.ch0 with precf := units f } }
    34 < (withUnits 35 (ready [] 0)).geom.nqu.toNat ∧
    (let s := u [2, 16] 26
     1 < s.geom.nqu.toNat ∧ Units.int (s.chan .c0).precf 0 ≤ 15 ∧ 32 = cursor s + bitsBefore (fineBits s .c0) 1 ∧
     32 ≤ s.limitBits ∧ 15 < Units.int (s.chan .c0).precf 1) ∧
    (let s := u [2, 2] 21
     1 < s.geom.nqu.toNat ∧ Units.int (s.chan .c0).precf 0 ≤ 15 ∧ Units.int (s.chan .c0).precf 1 ≤ 15 ∧
     33 = cursor s + bitsBefore (fineBits s .c0) 2 ∧ cursor s < 33 ∧ s.limitBits < 33) := by decide +kernel

/-- V-DQ 1, and precisions just outside the range; too many units. -/
theorem witness_DequantMultipliesByTheSteps :
    let s := dequantStart
    let u (p : Int) : State := { s with ch0 := { s.ch0 with prec := units [15, 0, 1, p] } }
    s.status.initDone = true ∧ s.geom.nqu.toNat ≤ 34 ∧
    (∀ i, i < s.geom.nqu.toNat → precInRange s .c0 i) ∧
    3 < (u 16).geom.nqu.toNat ∧ ¬precInRange (u 16) .c0 3 ∧ ¬precInRange (u (-1)) .c0 3 ∧
    34 < (withUnits 35 s).geom.nqu.toNat := by
  unfold precInRange
  decide +kernel

/-- The greatest factor, and one above it; too many units. -/
theorem witness_ScaleMultipliesByPowersOfTwo :
    let s := dequantStart
    let u (f : Int) : State := { s with ch0 := { s.ch0 with sf := units [0, 1, -3, f] } }
    s.status.initDone = true ∧ s.geom.nqu.toNat ≤ 34 ∧
    (∀ i, i < (u 31).geom.nqu.toNat → Units.int ((u 31).chan .c0).sf i ≤ 31) ∧
    3 < (u 32).geom.nqu.toNat ∧ 31 < Units.int ((u 32).chan .c0).sf 3 ∧ 34 < (withUnits 35 s).geom.nqu.toNat := by
  decide +kernel

/-! ### Binary32 and the IMDCT -/

/-- The greatest and the least positive finite value. -/
theorem witness_ArithmeticRoundsToNearestEven : finite 0x7F7FFFFF ∧ finite 0x00000001 := by
  unfold finite
  decide

theorem witness_SampleConversionRoundsHalfAwayFromZero :
    fpIsNaN 0x7F800001 = true ∧ finite 0xBFC00000 := by
  unfold finite
  decide

theorem witness_ShuffleIsAPermutation : 8 ≤ 8 ∧ 255 < 2 ^ 8 ∧ 7 < 8 := by decide

theorem witness_Dct4RunsItsThreePasses :
    ∃ st bh blk i f g, st < 7 ∧ bh = 8 - 1 - st - 1 ∧ blk < 2 ^ st ∧ i < 2 ^ bh ∧
      f = 2 * (blk * 2 ^ (8 - 1 - st) + i) ∧ g = f + 2 ^ (8 - 1 - st) :=
  ⟨6, 0, 63, 0, 252, 254, by decide, by decide, by decide, by decide, by decide, by decide⟩

theorem witness_OverlapAddWindowsAndAddsThePreviousHalf :
    ((8 = 7 ∨ 8 = 8) ∧ 256 = 2 ^ 8 ∧ 128 = 256 / 2) ∧ (7 = 7 ∨ 7 = 8) ∧ 128 = 2 ^ 7 ∧ 64 = 128 / 2 := by decide

/-- CFG-T with its default tables, after `INIT`, this size class in channel 0. -/
def readyFull (m : BitVec 4) : State :=
  { State.resetWith validT 0 with
    status := ⟨true, false, false, false, true, 0⟩
    hlut := buildLuts cfgT
    ch0 := { Channel.reset 0 .c0 with mbits := m } }

theorem witness_ImdctTransformsAndOverlaps :
    (readyFull 7).status.initDone = true ∧ 7 = ((readyFull 7).chan .c0).mbits.toNat ∧
    8 = ((readyFull 8).chan .c0).mbits.toNat ∧ 6 = ((readyFull 6).chan .c0).mbits.toNat := ⟨rfl, rfl, rfl, rfl⟩

theorem getD_all {p : Word → Bool} {l : List Word} (h : l.all p = true) (h0 : p 0 = true) (i : Nat) :
    p (l.getD i 0) = true := by
  rw [List.getD_eq_getElem?_getD]
  cases hi : l[i]? with
  | none => exact h0
  | some x => exact List.all_eq_true.mp h x (List.mem_of_getElem? hi)

theorem rows_all {p : Word → Bool} {l : List (List Word)} (h : l.all (·.all p) = true) (h0 : p 0 = true) (k i : Nat) :
    p ((l.getD k []).getD i 0) = true := by
  apply getD_all _ h0
  rw [List.getD_eq_getElem?_getD]
  cases hk : l[k]? with
  | none => rfl
  | some x => exact List.all_eq_true.mp h x (List.mem_of_getElem? hk)

/-- A finite word, decided. -/
def finiteWord (w : Word) : Bool := fpExp w != 255

theorem finite_of {w : Word} (h : finiteWord w = true) : finite w := by simpa [finiteWord, finite] using h

/-- Any finite tables: all zero, with the zeros of the two clauses negative and positive. -/
theorem witness_ZeroSpectrumGivesZeroSamples :
    let u := ready [] 0
    let s := { u with ch0 := { u.ch0 with mbits := 7, prev := Vector.replicate 256 0x80000000 } }
    s.status.initDone = true ∧ 7 = (s.chan .c0).mbits.toNat ∧ 64 = 2 ^ (7 - 1) ∧
    (∀ k i, finite (s.rom.tsinAt k i) ∧ finite (s.rom.tcosAt k i)) ∧ (∀ i, finite (s.rom.window 7 i)) ∧
    finite (s.rom.imdctScale 7) ∧
    ∀ n, n < 2 * 64 → fpIsZero (Lines.at (s.chan .c0).spec n) = true ∧ fpIsZero (Lines.at (s.chan .c0).prev n) = true := by
  refine ⟨rfl, rfl, rfl, fun k i => ⟨finite_of ?_, finite_of ?_⟩, fun i => finite_of ?_, finite_of ?_, ?_⟩
  · exact rows_all (p := finiteWord) (l := cfgT0.tsin) (by decide +kernel) rfl k i
  · exact rows_all (p := finiteWord) (l := cfgT0.tcos) (by decide +kernel) rfl k i
  · exact getD_all (p := finiteWord) (l := cfgT0.window7) (by decide +kernel) rfl i
  all_goals decide +kernel

/-- The default tables: after reset everything is +0.0; and the overlap that a first call leaves. -/
theorem witness_ZeroSpectrumGivesZeroSamples_signs :
    let s := readyFull 7
    s.status.initDone = true ∧ 7 = (s.chan .c0).mbits.toNat ∧ usesDefaultTables s.rom = true ∧
    finite (s.rom.imdctScale 7) ∧ 0 < fpInt (s.rom.imdctScale 7) ∧
    (∀ n, n < 2 * 64 → Lines.at (s.chan .c0).spec n = 0 ∧ Lines.at (s.chan .c0).prev n = 0) ∧
    (let p : Lines := Vector.ofFn (fun i => if i.val < 64 then 0x80000000 else 0)
     ∀ i, i < 64 → Lines.at p i = 0x80000000 ∧ Lines.at p (i + 64) = 0) := by
  refine ⟨rfl, rfl, ?_, finite_of (by decide +kernel), by decide +kernel, by decide +kernel, by decide +kernel⟩
  show usesDefaultTables cfgT = true
  simp [usesDefaultTables, cfgT, cfgTWith]

/-- A reset clears a non-zero overlap. -/
theorem witness_OverlapChangesOnlyByImdctFrameOrReset :
    let u := asked .reset
    let s := { u with ch0 := { u.ch0 with prev := Vector.replicate 256 1 } }
    ∃ t, step s = .next t ∧ (t.chan .c0).prev ≠ (s.chan .c0).prev := ⟨_, rfl, by decide +kernel⟩

/-! ### PCM output and frames -/

/-- Room to the last byte, no channel, a wrong size class, four bytes too little room. -/
theorem witness_PcmOutInterleavesTheSamples :
    let s (g : Geom) (p : BitVec 30) : State := { ready [] 0 with geom := g, outPtr := p }
    (s ⟨1, 7, 0, 0⟩ 960).status.initDone = true ∧ (s ⟨1, 7, 0, 0⟩ 960).geom.nch.toNat = 1 ∧
    (s ⟨1, 7, 0, 0⟩ 960).geom.fbits = 7 ∧
    (s ⟨1, 7, 0, 0⟩ 960).outPtrWord.toNat + 1 * 2 ^ 7 * 2 ≤ (s ⟨1, 7, 0, 0⟩ 960).rom.outBufBytes ∧
    ((s ⟨0, 7, 0, 0⟩ 0).geom.nch.toNat ≠ 1 ∧ (s ⟨0, 7, 0, 0⟩ 0).geom.nch.toNat ≠ 2) ∧
    ((s ⟨2, 9, 0, 0⟩ 0).geom.nch.toNat = 2 ∧ (s ⟨2, 9, 0, 0⟩ 0).geom.fbits ≠ 7 ∧ (s ⟨2, 9, 0, 0⟩ 0).geom.fbits ≠ 8) ∧
    (s ⟨1, 8, 0, 0⟩ 897).rom.outBufBytes < (s ⟨1, 8, 0, 0⟩ 897).outPtrWord.toNat + 1 * 2 ^ 8 * 2 := by decide +kernel

/-- P3 row 2. -/
theorem witness_AFrameConsumesItsDeclaredLength :
    ∃ t, exec .decodeFrame (ready frameOne 22) = .next t ∧ t.status.err = false :=
  ⟨_, exec_after _ _, by decide +kernel⟩

/-- `FRAME_OVERRUN`, `JOINT_INVALID`, and an `OVERRUN` of the header; the byte below `OUT_PTR` and the first beyond two channels. -/
theorem witness_AFailedFrameLeavesTheOverlapState :
    (let s := ready (frameOne.set 2 0x3C) 22
     s.status.err = false ∧ ∃ t, exec .decodeFrame s = .next t ∧ t.status.err = true ∧ t.status.errCode = 10) ∧
    (let s := ready (frameOne.set 12 0x87) 22
     s.status.err = false ∧ ∃ t, exec .decodeFrame s = .next t ∧ t.status.err = true ∧ t.status.errCode = 5) ∧
    (let s := { ready [] 1 with brPos := 33, outPtr := 1 }
     s.status.err = false ∧ (∃ t, exec .decodeFrame s = .next t ∧ t.status.err = true) ∧ beyondPcm s 3 ∧
     beyondPcm s (4 + 1024)) :=
  ⟨⟨rfl, _, exec_after _ _, by decide +kernel, by decide +kernel⟩,
    ⟨rfl, _, exec_after _ _, by decide +kernel, by decide +kernel⟩, rfl, ⟨_, exec_after _ _, by decide +kernel⟩,
    .inl (by decide +kernel), .inr (by decide +kernel)⟩

/-- The state after these commands. -/
def afterAll : List Instr → State → State
  | [], s => s
  | i :: is, s => afterAll is (after i s)

/-- None of these commands raises an error. -/
def allOk : List Instr → State → Bool
  | [], _ => true
  | i :: is, s => !(after i s).status.err && allOk is (after i s)

theorem runsTo_afterAll {l : List Instr} {s : State} (h : allOk l s = true) : runsTo l s (afterAll l s) := by
  induction l generalizing s with
  | nil => rfl
  | cons i is ih =>
    simp only [allOk, Bool.and_eq_true, Bool.not_eq_true'] at h
    exact ⟨_, exec_after i s, h.1, ih h.2⟩

/-- P2: frame F1 command by command, `ARG` 8. -/
theorem witness_AFrameEqualsItsCommandSequence :
    let s := { ready frameOne 22 with arg := 8 }
    let h := afterAll [.parseHeader] s
    let body := (List.range 1).flatMap (blockCommands 1)
    let b := afterAll body h
    s.status.err = false ∧ s.arg = 8 ∧ runsTo [.parseHeader] s h ∧ s.rom.ccid h.hdr.ccid.toNat = some ⟨1, 1, 1⟩ ∧
    runsTo body h b ∧ ((176 : Nat) : Int) = cursor s + 8 * (b.flen.toNat + s.rom.flenAdj) ∧ cursor b ≤ 176 ∧
    runsTo [.pcmOut] { b with brPos := BitVec.ofNat 32 176 } (afterAll [.pcmOut] { b with brPos := BitVec.ofNat 32 176 }) := by
  refine ⟨rfl, rfl, runsTo_afterAll ?_, ?_, runsTo_afterAll ?_, ?_, ?_, runsTo_afterAll ?_⟩ <;> decide +kernel

/-- CFG-T with a band count that selects no units. -/
def cfgU : Config := { cfgT0 with bandOffset := 0, nquRom := [0, 4] }

theorem cfgU_wf : cfgU.wf = true := by decide +kernel

/-- This configuration after `INIT`, these bytes in `IN_BUF`. -/
def readyU (bs : List Nat) : State := { ready bs bs.length with cfg := ⟨cfgU, cfgU_wf⟩, hlut := buildLuts cfgU }

theorem forall_of_bounded {n : Nat} {m : Nat → Nat} {P : Nat → Nat → Prop} (h : ∀ i < n, ∀ j < m i, P i j) :
    ∀ i j, i < n → j < m i → P i j := fun i j hi hj => h i hi j hj

/-- A channel of no units in scheme A. -/
theorem channelAt_empty {s : State} {l gmode gbnd p q : Nat} {grad ref : Nat → Int} (h : s.field p 1 = 0)
    (hq : q = p + 3 + s.rom.sfOffsetBits + 3) (hl : q ≤ s.limitBits) :
    channelAt s l 0 gmode gbnd grad ref p (fun _ => 0) q := by
  subst hq
  exact ⟨_, by simp [factorsAt, h, hl], nofun, nofun, rfl, hl⟩

/-- The header of a frame at position 0 with this shape, ending at 24, and its declared end. -/
def headerHolds (s : State) (e : CcidEntry) (stop : Nat) : Prop :=
  s.status.initDone = true ∧ s.status.err = false ∧ cursor s = 0 ∧
  24 = cursor s + 8 + s.rom.sridBits + s.rom.ccidBits + s.rom.flenBits + s.rom.fstatBits ∧ 24 ≤ s.limitBits ∧
  s.field (cursor s) 8 = s.rom.syncWord ∧ s.rom.fbits (s.field 8 s.rom.sridBits) = some 7 ∧
  s.rom.ccid (s.field 11 s.rom.ccidBits) = some e ∧
  (stop : Int) = cursor s + 8 * (s.field 13 s.rom.flenBits + s.rom.flenOffset + s.rom.flenAdj)

/-- A mono, a dual-mono and a stereo frame without units, each of its declared length to the bit. -/
theorem witness_AReadableFrameCompletesOrReportsItsEnd_noUnits :
    ∀ f ∈ [([0xAA, 0x00, 0x14] ++ List.replicate 6 0, CcidEntry.mk 1 1 1, 72, [0]),
        ([0xAA, 0x08, 0x2C] ++ List.replicate 12 0, CcidEntry.mk 2 2 1, 120, [0, 0]),
        ([0xAA, 0x10, 0x18] ++ List.replicate 7 0, CcidEntry.mk 2 1 2, 80, [0])],
      let s := readyU f.1
      let e := f.2.1
      headerHolds s e f.2.2.1 ∧ f.2.2.2.length = e.blocks ∧ blocksAt s e.chb f.2.2.2 24 f.2.2.1 ∧
      s.outPtrWord.toNat + e.nch * 2 ^ 7 * 2 ≤ s.rom.outBufBytes := by
  intro f hf
  simp only [List.mem_cons, List.not_mem_nil, or_false] at hf
  unfold headerHolds
  rcases hf with rfl | rfl | rfl
  · refine ⟨by decide +kernel, rfl, ⟨?_, ?_, ⟨?_, ?_⟩, 69, ⟨_, 69, channelAt_empty ?_ ?_ ?_, rfl⟩, ?_⟩, ?_⟩ <;>
      first | decide +kernel | (change _ = _; decide +kernel)
  · refine ⟨by decide +kernel, rfl, ⟨?_, ?_, ⟨?_, ?_⟩, 69, ⟨_, 69, channelAt_empty ?_ ?_ ?_, rfl⟩,
      ⟨?_, ?_, ⟨?_, ?_⟩, 117, ⟨_, 117, channelAt_empty ?_ ?_ ?_, rfl⟩, ?_⟩⟩, ?_⟩ <;>
      first | decide +kernel | (change _ = _; decide +kernel)
  · refine ⟨by decide +kernel, rfl, ⟨?_, ?_, ⟨?_, ?_⟩, 80,
      ⟨_, 69, channelAt_empty ?_ ?_ ?_, _, 80, channelAt_empty ?_ ?_ ?_, rfl⟩, ?_⟩, ?_⟩ <;>
      first | decide +kernel | (change _ = _; decide +kernel)

/-- The factors of frame F1 (P3). -/
def frameOneFactors (i : Nat) : Int := [29, 29, 31, 30, 30, 29, 30, 30].getD i 0

/-- Frame F1; P5, the same with a declared length one byte short; and F1 with four bytes too little room for its PCM. -/
theorem witness_AReadableFrameCompletesOrReportsItsEnd :
    (∀ f ∈ [(ready frameOne 22, 176, 0), (ready (frameOne.set 2 0x3C) 22, 152, 0),
        ({ ready frameOne 22 with outPtr := 961 }, 176, 3844)],
      headerHolds f.1 ⟨1, 1, 1⟩ f.2.1 ∧ lutsHold f.1 ∧ blocksAt f.1 1 [8] 24 168 ∧
      f.1.outPtrWord.toNat = f.2.2 ∧ f.1.ctrl.outFmt = false ∧ f.1.rom.outBufBytes = 4096) ∧
    (168 ≤ 176 ∧ 0 + 1 * 2 ^ 7 * 2 ≤ 4096) ∧ 152 < 168 ∧ 4096 < 3844 + 1 * 2 ^ 7 * 2 := by
  refine ⟨fun f hf => ?_, by decide⟩
  simp only [List.mem_cons, List.not_mem_nil, or_false] at hf
  unfold headerHolds
  rcases hf with rfl | rfl | rfl
  all_goals
    refine ⟨by decide +kernel, lutsHold_of (lutsHold_ready [] 0) rfl rfl, ?_, rfl, rfl, rfl⟩
    refine ⟨by decide +kernel, by decide +kernel, ⟨by decide +kernel, by decide +kernel⟩, 164,
      ⟨frameOneFactors, 164, ⟨101, ?_, by decide +kernel, ?_, by decide +kernel, by decide +kernel⟩, rfl⟩, ?_⟩
    · unfold factorsAt
      rw [if_pos (by decide +kernel), if_neg (by decide)]
      refine ⟨by decide +kernel, by decide +kernel, [0, 2, 15, 0, 15, 1, 0], rfl, ?_, by decide +kernel⟩
      refine ⟨⟨?_, ?_⟩, ?_, ?_, ⟨?_, ?_⟩, ?_, ?_, ⟨?_, ?_⟩, ?_, ?_, ⟨?_, ?_⟩, ?_, ?_, ⟨?_, ?_⟩, ?_, ?_, ⟨?_, ?_⟩, ?_, ?_,
        ⟨?_, ?_⟩, ?_, ?_, ?_⟩ <;> first | decide +kernel | (change _ = _; decide +kernel)
    · exact forall_of_bounded (by decide +kernel)
    · change _ = _
      decide +kernel

/-- First fields that end one bit beyond the limit: sync, band count, mode, scheme, a joint and a plain code, a residual;
and the sampling-rate field of a header whose sync field is readable. -/
theorem witness_overruns_firstField :
    let s (a : Word) : State := { ready [] 1 with brPos := a }
    (s 33).status.initDone = true ∧ (s 33).status.err = false ∧ (s 33).limitBits < cursor (s 33) + 8 ∧
    (∃ t, exec .decodeFrame (s 33) = .next t ∧ t.status.err = true) ∧
    (let u := { ready [0, 0, 0, 0, 0xAA] 1 with brPos := 32 }
     u.status.initDone = true ∧ u.status.err = false ∧ u.field (cursor u) 8 = u.rom.syncWord ∧
     u.limitBits < cursor u + (headerFields u.rom).sum ∧
     failingField u.limitBits (headerFields u.rom) (cursor u) = 40 ∧
     ∃ t, exec .decodeFrame u = .next t ∧ t.status.err = true) ∧
    0 < (s 37).rom.bandBits ∧ (s 37).limitBits < cursor (s 37) + (s 37).rom.bandBits ∧
    (s 39).limitBits < cursor (s 39) + 2 ∧ (s 40).limitBits < cursor (s 40) + 1 ∧
    (let u := spectrumAt 1 [1] [0, 0, 0, 0] 30
     u.limitBits < cursor u + 3 ∧ coarseFields (precOf u .c0 0) (u.rom.nsps 0) = [3]) ∧
    (let u := spectrumAt 1 [2] [0, 0, 0, 0] 30
     u.limitBits < cursor u + 3 ∧ coarseFields (precOf u .c0 0) (u.rom.nsps 0) = [3, 3]) ∧
    (let v := spectrumAt 1 [] [0, 0, 0, 0] 30
     let u := { v with ch0 := { v.ch0 with precf := units [2] } }
     u.limitBits < cursor u + sampleWidth (fineOf u .c0 0)) := by
  refine ⟨by decide +kernel, by decide +kernel, by decide +kernel, ⟨_, exec_after _ _, by decide +kernel⟩, ?_,
    by decide +kernel, by decide +kernel, by decide +kernel, by decide +kernel, by decide +kernel, by decide +kernel,
    by decide +kernel⟩
  exact ⟨by decide +kernel, by decide +kernel, by decide +kernel, by decide +kernel, by decide +kernel, _, exec_after _ _,
    by decide +kernel⟩

/-! ### Frames of the commands and the invariant -/

/-- With an error and without. -/
theorem witness_ReaderAndFieldCommandsWriteTheirRegistersOnly :
    (∃ t, exec (.brRead 8) (ready [0xB4] 1) = .next t ∧ t.status.err = false) ∧
    ∃ t, exec .parseHeader (ready [0xAA, 0x80, 0x00] 3) = .next t ∧ t.status.err = true :=
  ⟨⟨_, exec_after _ _, by decide +kernel⟩, _, exec_after _ _, by decide +kernel⟩

theorem witness_ChannelCommandsWriteTheirArraysOnly :
    (∃ t, exec (.dequant .c0) dequantStart = .next t ∧ t.status.err = false) ∧
    ∃ t, exec (.imdct .c1) (ready [] 0) = .next t ∧ t.status.err = true :=
  ⟨⟨_, exec_after _ _, by decide +kernel⟩, _, exec_after _ _, by decide +kernel⟩

theorem witness_OutputCommandsWriteTheirPcmOnly :
    (∃ t, exec .pcmOut { ready [] 0 with geom := ⟨1, 7, 0, 0⟩ } = .next t ∧ t.status.err = false) ∧
    (ready [] 0).status.err = false ∧ ∃ t, exec .pcmOut (ready [] 0) = .next t ∧ t.status.err = true :=
  ⟨⟨_, exec_after _ _, by decide +kernel⟩, rfl, _, exec_after _ _, by decide +kernel⟩

/-- `INIT` changes the lookup tables of a block just reset. -/
theorem witness_RomsAndLookupTablesAreReadOnly :
    let s := { State.resetWith validT0 0 with hostQueue := [.write .w32 0x0000C 1] }
    ∃ t, step s = .next t ∧ t.hlut ≠ s.hlut := ⟨_, rfl, by decide +kernel⟩

theorem witness_TheCursorNeverMovesBack :
    let s := { ready [] 0 with brPos := 5, arg := 8 }
    ∃ t, exec .brAlign s = .next t ∧ s.status.err = false ∧ t.status.err = false ∧ 
      cursor s ≤ 1 * s.arg.toNat ∧ 1 * s.arg.toNat < 2 ^ 32 :=
  ⟨_, exec_after _ _, rfl, by decide +kernel, by decide +kernel⟩

/-- A block with input and a command waiting. -/
theorem witness_EveryStepKeepsInv :
    let s := asked (.write .w32 0x0000C 0x00000C11)
    s.Inv ∧ ∃ t, step s = .next t := by
  refine ⟨⟨rfl, by decide, by decide +kernel, by decide, by decide, by decide +kernel, rfl, by decide +kernel,
    by decide +kernel, ?_, ?_⟩, _, rfl⟩ <;> decide +kernel

end Sys2Proof.Tests
end

section
/-! The Huffman codebooks: the lookup tables that `INIT` builds are those of R131, and every code decodes to its symbol
(R135). -/

namespace Sys2Proof.Proofs.Huffman

open Sys2Proof.Machine Sys2Proof.Claims

/-! ### The constraints on a codebook, as propositions (R91, R130, R132) -/

theorem allPairs_iff_pairwise {α : Type} (r : α → α → Bool) (l : List α) :
    allPairs r l = true ↔ l.Pairwise (fun a b => r a b = true) := by
  induction l with
  | nil => simp [allPairs]
  | cons x xs ih => simp [allPairs, ih]

/-- The constraints of `HuffTable.wf` that decoding relies on. -/
structure WellFormedCodebook (id : Nat) (t : HuffTable) : Prop where
  vb_eq : t.vb = if id < 7 then id else id - 7
  sgn_eq : t.sgn = decide (7 ≤ id)
  bits_length : t.bits.length = 2 ^ t.vb
  codes_length : t.codes.length = 2 ^ t.vb
  maxb_le : t.maxb ≤ 32
  bits_le : ∀ b ∈ t.bits, b ≤ t.maxb
  prefixFree : t.used.Pairwise (fun a b => codeStarts a b = false ∧ codeStarts b a = false)

variable {id i j w : Nat} {t : HuffTable} {s : State}

theorem wellFormedCodebook_of_wf (h : t.wf id = true) : WellFormedCodebook id t := by
  simp only [HuffTable.wf, HuffTable.prefixFree, Bool.and_eq_true, beq_iff_eq, decide_eq_true_eq, List.all_eq_true,
    allPairs_iff_pairwise, Bool.not_eq_true'] at h
  obtain ⟨⟨⟨⟨⟨⟨⟨⟨⟨hvb, hsgn⟩, hbits⟩, hcodes⟩, hmaxb⟩, hle⟩, -⟩, hfree⟩, -⟩, -⟩ := h
  exact ⟨hvb, hsgn, hbits, hcodes, hmaxb, hle, hfree⟩

/-- Each of the 13 codebooks of a configuration meets its constraints (R55, R130). -/
theorem wellFormedCodebook_huff (c : ValidConfig) (h : id ≤ 12) : WellFormedCodebook id (c.rom.huff id) := by
  have hwf := c.ok
  simp only [Config.wf, Config.huffOk, Bool.and_eq_true, beq_iff_eq, List.all_eq_true] at hwf
  obtain ⟨⟨⟨-, hlen, hall⟩, -⟩, -⟩ := hwf
  have hid : id < c.rom.huffRom.length := by omega
  have hget : c.rom.huff id = c.rom.huffRom[id] := List.getD_eq_getElem _ _ hid
  rw [hget]
  exact wellFormedCodebook_of_wf (hall (c.rom.huffRom[id], id) (by simp [List.mem_zipIdx_iff_getElem?, hid]))

/-- A code's length is an entry of `BITS`, unless the symbol has no code. -/
theorem len_mem_bits (h : t.len i ≠ 0) : t.len i ∈ t.bits := by
  rw [HuffTable.len, List.getD_eq_getElem?_getD] at h ⊢
  cases hb : t.bits[i]? with
  | none => simp [hb] at h
  | some b => exact List.mem_of_getElem? hb

theorem WellFormedCodebook.len_le (h : WellFormedCodebook id t) (i : Nat) : t.len i ≤ t.maxb := by
  by_cases hi : t.len i = 0
  · exact hi ▸ Nat.zero_le _
  · exact h.bits_le _ (len_mem_bits hi)

/-- No code of a used symbol is an initial part of a later symbol's code, nor the other way round (R130). -/
theorem WellFormedCodebook.codes_incomparable (h : WellFormedCodebook id t) (hi : usedSymbol t i) (hj : usedSymbol t j)
    (hij : i < j) :
    codeStarts (t.len i, t.code i) (t.len j, t.code j) = false ∧
    codeStarts (t.len j, t.code j) (t.len i, t.code i) = false := by
  obtain ⟨hi, hui⟩ := hi
  obtain ⟨hj, huj⟩ := hj
  have hbits := h.bits_length
  have hcodes := h.codes_length
  have hfree := h.prefixFree
  rw [HuffTable.used, List.pairwise_filter, List.pairwise_iff_getElem] at hfree
  have := hfree i j (by simp; omega) (by simp; omega) hij
  rw [List.getElem_zip, List.getElem_zip] at this
  simp only [HuffTable.len, HuffTable.code] at hui huj ⊢
  rw [List.getD_eq_getElem _ _ (by omega)] at hui huj ⊢
  rw [List.getD_eq_getElem _ _ (by omega), List.getD_eq_getElem _ _ (by omega), List.getD_eq_getElem _ _ (by omega)]
  exact this (by simpa using hui) (by simpa using huj)

/-! ### The slots of a symbol (R131) -/

/-- A window lies in a symbol's slots when its leading bits are the symbol's code. -/
theorem covers_iff_shiftRight : covers t i w ↔ w >>> (t.maxb - t.len i) = t.code i := by
  have hpos := Nat.two_pow_pos (t.maxb - t.len i)
  rw [covers, Nat.shiftRight_eq_div_pow, Nat.div_eq_iff hpos, Nat.add_one_mul]
  omega

/-- Of two codes that begin one window, the shorter begins the longer. -/
theorem codeStarts_of_covers (hj : t.len j ≤ t.maxb) (hci : covers t i w) (hcj : covers t j w)
    (hij : t.len i ≤ t.len j) : codeStarts (t.len i, t.code i) (t.len j, t.code j) = true := by
  rw [covers_iff_shiftRight] at hci hcj
  have hshift : t.maxb - t.len j + (t.len j - t.len i) = t.maxb - t.len i := by omega
  simp only [codeStarts, Bool.and_eq_true, decide_eq_true_eq, beq_iff_eq]
  exact ⟨hij, by rw [← hcj, ← Nat.shiftRight_add, hshift, hci]⟩

/-- Two codes that begin one window are comparable, so symbols in order cannot share a slot. -/
theorem WellFormedCodebook.not_lt_of_covers (h : WellFormedCodebook id t) (hi : usedSymbol t i) (hj : usedSymbol t j)
    (hci : covers t i w) (hcj : covers t j w) : ¬i < j := by
  intro hij
  obtain ⟨hf, hb⟩ := h.codes_incomparable hi hj hij
  rcases Nat.le_total (t.len i) (t.len j) with hle | hle
  · rw [codeStarts_of_covers (h.len_le j) hci hcj hle] at hf
    cases hf
  · rw [codeStarts_of_covers (h.len_le i) hcj hci hle] at hb
    cases hb

/-- The slots of the used symbols are disjoint. -/
theorem WellFormedCodebook.covers_unique (h : WellFormedCodebook id t) (hi : usedSymbol t i) (hj : usedSymbol t j)
    (hci : covers t i w) (hcj : covers t j w) : i = j :=
  Nat.le_antisymm (Nat.not_lt.mp (h.not_lt_of_covers hj hi hcj hci)) (Nat.not_lt.mp (h.not_lt_of_covers hi hj hci hcj))

/-! ### The lookup tables that `INIT` builds (R131) -/

/-- The runs of a table after the first `n` symbols are those of the used symbols among them. -/
theorem mem_foldl_lutRunOf {r : LutRun} (n : Nat) :
    r ∈ (List.range n).foldl (fun runs i => if t.len i = 0 then runs else lutRunOf t i :: runs) [] ↔
      ∃ i, i < n ∧ t.len i ≠ 0 ∧ lutRunOf t i = r := by
  induction n with
  | zero => simp
  | succ n ih =>
    rw [List.range_succ, List.foldl_append, List.foldl_cons, List.foldl_nil, Nat.exists_lt_succ_right, ← ih]
    by_cases hn : t.len n = 0
    · simp [hn]
    · simp [hn, or_comm, eq_comm]

theorem mem_buildLut {r : LutRun} : r ∈ buildLut t ↔ ∃ i, usedSymbol t i ∧ lutRunOf t i = r := by
  simp only [buildLut, mem_foldl_lutRunOf, usedSymbol, and_assoc]

/-- The run of a symbol holds exactly the windows in its slots. -/
theorem lutRunOf_bounds_iff : (lutRunOf t i).lo ≤ w ∧ w < (lutRunOf t i).hi ↔ covers t i w := by
  simp only [lutRunOf, covers, Nat.shiftLeft_eq]

/-- Slot `w` of a built table is symbol `i` exactly when `i` is used and its slots include `w`. -/
theorem lutLookup_buildLut (h : WellFormedCodebook id t) :
    lutLookup (buildLut t) w = some i ↔ usedSymbol t i ∧ covers t i w := by
  have found : ∀ {k}, lutLookup (buildLut t) w = some k → usedSymbol t k ∧ covers t k w := by
    intro k hk
    obtain ⟨r, hr, rfl⟩ := Option.map_eq_some_iff.mp hk
    obtain ⟨k, hu, rfl⟩ := mem_buildLut.mp (List.mem_of_find?_eq_some hr)
    have hbounds := List.find?_some hr
    simp only [Bool.and_eq_true, decide_eq_true_eq] at hbounds
    exact ⟨hu, lutRunOf_bounds_iff.mp hbounds⟩
  refine ⟨found, fun ⟨hu, hc⟩ => ?_⟩
  cases hl : lutLookup (buildLut t) w with
  | none =>
    have hnone := List.find?_eq_none.mp (Option.map_eq_none_iff.mp hl) _ (mem_buildLut.mpr ⟨i, hu, rfl⟩)
    simp only [Bool.and_eq_true, decide_eq_true_eq] at hnone
    exact absurd (lutRunOf_bounds_iff.mpr hc) hnone
  | some k =>
    obtain ⟨huk, hck⟩ := found hl
    rw [h.covers_unique huk hu hck hc]

theorem buildLuts_getD (c : Config) (h : id ≤ 12) : (buildLuts c).getD id [] = buildLut (c.huff id) := by
  have hid : id < 13 := by omega
  simp [buildLuts, Vector.getD, hid]

/-- A state that holds the tables `INIT` builds from its configuration satisfies R131. -/
theorem lutsHold_of_buildLuts (h : s.hlut = buildLuts s.rom) : lutsHold s := by
  intro id hid w _ i
  rw [h, buildLuts_getD _ hid]
  exact lutLookup_buildLut (wellFormedCodebook_huff s.cfg hid)

/-- Settles O19: the built tables answer each window by the one used symbol whose slots include it, since prefix-free codes
have disjoint slots. -/
theorem initBuildsTheLookupTables : Obligations.InitBuildsTheLookupTables :=
  fun s => ⟨(initTables s).complete, rfl, lutsHold_of_buildLuts rfl, rfl⟩

/-! ### `HuffDecode` at a code (R133, R135) -/

/-- A field's leading bits are the shorter field at the same position. -/
theorem field_shiftRight (s : State) (p n k : Nat) : s.field p (n + k) >>> k = s.field p n := by
  induction k with
  | zero => rfl
  | succ k ih =>
    have hbit := streamBit_le s (p + (n + k))
    have hdrop : s.field p (n + k + 1) >>> 1 = s.field p (n + k) := by
      rw [State.field, Nat.shiftRight_one]
      omega
    rw [← Nat.add_assoc, Nat.add_comm k 1, Nat.shiftRight_add, hdrop, ih]

theorem isEmpty_eq_false_of_usedSymbol (h : usedSymbol t i) : t.isEmpty = false := by
  simp only [HuffTable.isEmpty, List.all_eq_false, beq_iff_eq]
  exact ⟨_, len_mem_bits h.2, h.2⟩

/-- A readable window that begins with a symbol's code lies in that symbol's slots. -/
theorem covers_field_of_code (h : t.len i ≤ t.maxb) {p : Nat} (hf : s.field p (t.len i) = t.code i) :
    covers t i (s.field p t.maxb) := by
  have hwindow := field_shiftRight s p (t.len i) (t.maxb - t.len i)
  rw [Nat.add_sub_cancel' h] at hwindow
  rw [covers_iff_shiftRight, hwindow, hf]

/-- The two spellings of R9's sign extension agree on `n`-bit values. -/
theorem sext_eq_signed {n v : Nat} (h : v < 2 ^ n) : sext n v = signed n v := by
  cases n with
  | zero => rfl
  | succ n =>
    have htop : v.testBit n = decide (2 ^ (n + 1) ≤ 2 * v) := by
      by_cases hn : 2 ^ n ≤ v
      · rw [Nat.testBit_of_two_pow_le_and_two_pow_add_one_gt hn h, decide_eq_true (by omega)]
      · rw [Nat.testBit_eq_false_of_lt (Nat.lt_of_not_le hn), decide_eq_false (by omega)]
    simp only [sext, signed, htop, decide_eq_true_eq, if_neg (Nat.succ_ne_zero n)]

theorem WellFormedCodebook.symbolValue_eq (h : WellFormedCodebook id t) (hi : usedSymbol t i) :
    symbolValue t i = symbolMeans id i := by
  have hlt := hi.1
  rw [symbolValue, symbolMeans, h.sgn_eq]
  by_cases hid : 7 ≤ id
  · rw [h.vb_eq, if_neg (by omega)] at hlt
    rw [h.vb_eq, if_neg (Nat.not_lt.mpr hid), if_pos hid, if_pos (by simpa using hid), sext_eq_signed hlt]
  · rw [if_neg hid, if_neg (by simpa using hid)]

/-- `HuffDecode` at the code of a used symbol answers the symbol's value and the position after the code. -/
theorem huffAt_code (hl : lutsHold s) (hid : id ≤ 12) (hi : usedSymbol (s.rom.huff id) i) {p : Nat}
    (hr : p + (s.rom.huff id).maxb ≤ s.limitBits)
    (hf : s.field p ((s.rom.huff id).len i) = (s.rom.huff id).code i) :
    s.huffAt p id = .ok (symbolMeans id i, p + (s.rom.huff id).len i) := by
  have hwf := wellFormedCodebook_huff s.cfg hid
  have hcov := covers_field_of_code (hwf.len_le i) hf
  have hlook := (hl id hid _ (field_lt s p _) i).mpr ⟨hi, hcov⟩
  rw [State.huffAt, isEmpty_eq_false_of_usedSymbol hi, if_neg Bool.false_ne_true, peek_ok ⟨hwf.maxb_le, .inr hr⟩, ok_bind,
    hlook, ← hwf.symbolValue_eq hi]
  rfl

/-- Settles O25: the window that begins with the code lies in the symbol's slots, so the table answers the symbol. -/
theorem huffmanCodesDecodeToTheirSymbols : Obligations.HuffmanCodesDecodeToTheirSymbols := by
  intro s id i hinit hl hid hi hr hf
  have hrule : huffDecodeRule id s = .ok { s with
      result := Word.ofInt (symbolMeans id i), brPos := Word.ofNat (cursor s + (s.rom.huff id).len i) } := by
    rw [huffDecodeRule, huffAt_code hl hid hi hr hf, ok_bind, pure_eq_ok]
  have hexec : exec (.huffDecode id) s = runCommand unspecResult (huffDecodeRule id) s :=
    if_pos (decide_eq_true hid)
  rw [hexec, runCommand_ok hinit hrule]
  rfl

end Sys2Proof.Proofs.Huffman
end

section
/-! The IMDCT engine: the shuffle table (R221), the passes of the DCT-IV (R223 to R225) and the overlap-add (R227). -/

namespace Sys2Proof.Proofs.Imdct

open Sys2Proof.Machine Sys2Proof.Claims

/-! ### Loops whose iterations keep to cells of their own -/

section
variable {α β γ : Type} {step : α → β → α} {get : α → Nat → γ} {cells : β → List Nat} {l : List β}

/-- Every iteration of the loop over `l` reads and writes its own cells only, and no cell belongs to two iterations. -/
structure OwnCells (step : α → β → α) (get : α → Nat → γ) (cells : β → List Nat) (l : List β) : Prop where
  nodup : l.Nodup
  disjoint : ∀ i ∈ l, ∀ k ∈ l, ∀ j, j ∈ cells i → j ∈ cells k → i = k
  frame : ∀ i ∈ l, ∀ a j, j ∉ cells i → get (step a i) j = get a j
  reads : ∀ i ∈ l, ∀ a a', (∀ j ∈ cells i, get a j = get a' j) →
    ∀ j ∈ cells i, get (step a i) j = get (step a' i) j

theorem OwnCells.tail {x : β} (h : OwnCells step get cells (x :: l)) : OwnCells step get cells l where
  nodup := h.nodup.of_cons
  disjoint i hi k hk := h.disjoint i (List.mem_cons_of_mem _ hi) k (List.mem_cons_of_mem _ hk)
  frame i hi := h.frame i (List.mem_cons_of_mem _ hi)
  reads i hi := h.reads i (List.mem_cons_of_mem _ hi)

/-- The loop leaves a cell of no iteration as it was. -/
theorem OwnCells.foldl_frame (h : OwnCells step get cells l) {j : Nat} (hj : ∀ i ∈ l, j ∉ cells i) (a : α) :
    get (l.foldl step a) j = get a j := by
  induction l generalizing a with
  | nil => rfl
  | cons x xs ih =>
    rw [List.foldl_cons, ih h.tail (fun i hi => hj i (List.mem_cons_of_mem _ hi)),
      h.frame x List.mem_cons_self a j (hj x List.mem_cons_self)]

/-- The loop leaves in a cell what the cell's own iteration makes of the old values: the order of iterations does not
matter. -/
theorem OwnCells.foldl_cell (h : OwnCells step get cells l) {i : β} (hi : i ∈ l) {j : Nat} (hj : j ∈ cells i) (a : α) :
    get (l.foldl step a) j = get (step a i) j := by
  induction l generalizing a with
  | nil => cases hi
  | cons x xs ih =>
    have hx : x ∉ xs := (List.nodup_cons.mp h.nodup).1
    rw [List.foldl_cons]
    rcases List.mem_cons.mp hi with rfl | hxs
    · refine h.tail.foldl_frame (fun k hk hjk => ?_) _
      exact hx (h.disjoint i hi k (List.mem_cons_of_mem _ hk) j hj hjk ▸ hk)
    · rw [ih h.tail hxs]
      refine h.reads i hi _ _ (fun m hm => h.frame x List.mem_cons_self a m fun hmx => ?_) j hj
      exact hx (h.disjoint i hi x List.mem_cons_self m hm hmx ▸ hxs)

end

theorem lines_at_put_same {i : Nat} (h : i < 256) (v : Lines) (x : Word) : Lines.at (Lines.put v i x) i = x := by
  rw [lines_at_put, if_pos ⟨rfl, h⟩]

theorem lines_at_put_ne {i j : Nat} (h : i ≠ j) (v : Lines) (x : Word) :
    Lines.at (Lines.put v i x) j = Lines.at v j := by
  rw [lines_at_put, if_neg (fun hij => h hij.1)]

/-- In a size class up to 8 the first N lines lie in the array. -/
theorem two_pow_le_of_sizeClass {b : Nat} (h : b ≤ 8) : 2 ^ b ≤ 256 := Nat.pow_le_pow_right (by decide) h

/-- N = 2·H. -/
theorem two_pow_eq_double_half {b : Nat} (h : 1 ≤ b) : 2 ^ b = 2 * 2 ^ (b - 1) := by
  rw [← Nat.pow_succ', Nat.succ_eq_add_one, Nat.sub_add_cancel h]

/-! ### The shuffle table (R221) -/

theorem bitRev_lt (k x : Nat) : bitRev k x < 2 ^ k := by
  induction k generalizing x with
  | zero => exact Nat.one_pos
  | succ k ih =>
    have hlow := ih (x / 2)
    have htop : x % 2 * 2 ^ k ≤ 1 * 2 ^ k := Nat.mul_le_mul_right _ (by omega)
    rw [bitRev, Nat.pow_succ]
    omega

/-- Bit `j` of `x` becomes bit k−1−j. -/
theorem testBit_bitRev {k j : Nat} (x : Nat) (h : j < k) : (bitRev k x).testBit (k - 1 - j) = x.testBit j := by
  induction k generalizing x j with
  | zero => cases h
  | succ k ih =>
    rw [bitRev, Nat.mul_comm, Nat.testBit_two_pow_mul_add _ (bitRev_lt k _)]
    cases j with
    | zero => simp
    | succ j =>
      have hindex : k + 1 - 1 - (j + 1) = k - 1 - j := by omega
      rw [hindex, if_pos (by omega), ih _ (by omega), Nat.testBit_div_two]

/-- `bitrev_k` loses nothing of a k-bit value. -/
theorem bitRev_injOn {k x y : Nat} (hx : x < 2 ^ k) (hy : y < 2 ^ k) (h : bitRev k x = bitRev k y) : x = y := by
  refine Nat.eq_of_testBit_eq fun j => ?_
  by_cases hj : j < k
  · rw [← testBit_bitRev x hj, h, testBit_bitRev y hj]
  · have hk : 2 ^ k ≤ 2 ^ j := Nat.pow_le_pow_right (by decide) (Nat.not_lt.mp hj)
    rw [Nat.testBit_eq_false_of_lt (hx.trans_le hk), Nat.testBit_eq_false_of_lt (hy.trans_le hk)]

theorem gray_lt {k i : Nat} (h : i < 2 ^ k) : i ^^^ (i >>> 1) < 2 ^ k :=
  Nat.xor_lt_two_pow h (Nat.shiftRight_le i 1 |>.trans_lt h)

/-- Two numbers with one Gray code differ by a number that its own half equals, so by 0. -/
theorem gray_injective {i j : Nat} (h : i ^^^ (i >>> 1) = j ^^^ (j >>> 1)) : i = j := by
  have hhalf : i ^^^ j = (i ^^^ j) >>> 1 := by
    rw [Nat.shiftRight_xor_distrib]
    calc i ^^^ j = i ^^^ (i >>> 1) ^^^ (i >>> 1) ^^^ j := by rw [Nat.xor_xor_cancel_right]
      _ = j ^^^ ((j >>> 1) ^^^ (i >>> 1)) ^^^ j := by rw [h, Nat.xor_assoc j]
      _ = (i >>> 1) ^^^ (j >>> 1) := by rw [Nat.xor_comm j, Nat.xor_xor_cancel_right, Nat.xor_comm]
  exact Nat.xor_eq_zero_iff.mp (by omega)

theorem shufRom_injOn {k i j : Nat} (hi : i < 2 ^ k) (hj : j < 2 ^ k) (h : shufRom k i = shufRom k j) : i = j :=
  gray_injective (bitRev_injOn (gray_lt hi) (gray_lt hj) h)

theorem shufRom_lt (k i : Nat) : shufRom k i < 2 ^ k := bitRev_lt k _

/-- An injection of 0..2^k − 1 into itself reaches every value. -/
theorem shufRom_surjOn {k m : Nat} (h : m < 2 ^ k) : ∃ i, i < 2 ^ k ∧ shufRom k i = m := by
  have hsurj := Finset.surjOn_of_injOn_of_card_le (s := Finset.range (2 ^ k)) (t := Finset.range (2 ^ k)) (shufRom k)
    (fun i _ => by simpa using shufRom_lt k i)
    (fun i hi j hj => shufRom_injOn (by simpa using hi) (by simpa using hj)) le_rfl
  simpa using hsurj (by simpa using h)

/-- Settles O43: bit reversal and the Gray code are both injective on k-bit values. -/
theorem shuffleIsAPermutation : Obligations.ShuffleIsAPermutation :=
  fun k _ => ⟨fun _ _ _ hj => testBit_bitRev _ hj, fun i _ => shufRom_lt k i, fun _ _ => shufRom_injOn,
    fun _ => shufRom_surjOn⟩

/-! ### The pre-rotation (R223) -/

section
variable {c : Config} {b i : Nat} {x : Lines}

theorem preRotateStep_even (h : 2 * i < 256) (t : Lines) : Lines.at (preRotateStep c b x t i) (2 * i) =
    fadd (fmul (Lines.at x (2 * i)) (c.tcosAt b i)) (fmul (Lines.at x (2 ^ b - 1 - 2 * i)) (c.tsinAt b i)) := by
  simp (disch := omega) only [preRotateStep, lines_at_put_ne, lines_at_put_same]

theorem preRotateStep_odd (h : 2 * i + 1 < 256) (t : Lines) : Lines.at (preRotateStep c b x t i) (2 * i + 1) =
    fsub (fmul (Lines.at x (2 * i)) (c.tsinAt b i)) (fmul (Lines.at x (2 ^ b - 1 - 2 * i)) (c.tcosAt b i)) := by
  rw [preRotateStep, lines_at_put_same h]

theorem preRotateStep_frame {j : Nat} (h : j ∉ [2 * i, 2 * i + 1]) (t : Lines) :
    Lines.at (preRotateStep c b x t i) j = Lines.at t j := by
  simp only [List.mem_cons, List.not_mem_nil, or_false, not_or] at h
  simp (disch := omega) only [preRotateStep, lines_at_put_ne]

/-- Iteration `i` of the pre-rotation has the cells 2i and 2i + 1. -/
theorem preRotate_ownCells (c : Config) (x : Lines) (hb1 : 1 ≤ b) (hb : b ≤ 8) :
    OwnCells (preRotateStep c b x) Lines.at (fun i => [2 * i, 2 * i + 1]) (List.range (2 ^ (b - 1))) where
  nodup := List.nodup_range
  disjoint i _ k _ j hi hk := by
    simp only [List.mem_cons, List.not_mem_nil, or_false] at hi hk
    omega
  frame i _ t j hj := preRotateStep_frame hj t
  reads i hi t t' _ j hj := by
    have hcells := two_pow_le_of_sizeClass hb
    rw [two_pow_eq_double_half hb1] at hcells
    rw [List.mem_range] at hi
    simp only [List.mem_cons, List.not_mem_nil, or_false] at hj
    rcases hj with rfl | rfl
    · rw [preRotateStep_even (by omega), preRotateStep_even (by omega)]
    · rw [preRotateStep_odd (by omega), preRotateStep_odd (by omega)]

/-- The pre-rotated cells 2i and 2i + 1 are those of iteration `i`. -/
theorem preRotate_cells (c : Config) (x : Lines) (hb1 : 1 ≤ b) (hb : b ≤ 8) (hi : i < 2 ^ (b - 1)) :
    Lines.at (preRotate c b x) (2 * i) =
      fadd (fmul (Lines.at x (2 * i)) (c.tcosAt b i)) (fmul (Lines.at x (2 ^ b - 1 - 2 * i)) (c.tsinAt b i)) ∧
    Lines.at (preRotate c b x) (2 * i + 1) =
      fsub (fmul (Lines.at x (2 * i)) (c.tsinAt b i)) (fmul (Lines.at x (2 ^ b - 1 - 2 * i)) (c.tcosAt b i)) := by
  have hloop := preRotate_ownCells c x hb1 hb
  have hcells := two_pow_le_of_sizeClass hb
  rw [two_pow_eq_double_half hb1] at hcells
  have hmem := List.mem_range.mpr hi
  rw [preRotate, hloop.foldl_cell hmem (by simp), hloop.foldl_cell hmem (by simp)]
  exact ⟨preRotateStep_even (by omega) _, preRotateStep_odd (by omega) _⟩

end

/-! ### The butterfly stages (R224) -/

section
variable {c : Config} {bhb i f g : Nat}

/-- What a butterfly leaves in its four cells, from the old values of these cells. -/
theorem butterfly_cells (c : Config) (bhb i : Nat) (hfg : f + 1 < g) (hg : g + 1 < 256) (t : Lines) :
    let u := fsub (Lines.at t f) (Lines.at t g)
    let v := fsub (Lines.at t (f + 1)) (Lines.at t (g + 1))
    Lines.at (butterfly c bhb i f g t) f = fadd (Lines.at t f) (Lines.at t g) ∧
    Lines.at (butterfly c bhb i f g t) (f + 1) = fadd (Lines.at t (f + 1)) (Lines.at t (g + 1)) ∧
    Lines.at (butterfly c bhb i f g t) g = fadd (fmul u (c.tcosAt bhb i)) (fmul v (c.tsinAt bhb i)) ∧
    Lines.at (butterfly c bhb i f g t) (g + 1) = fsub (fmul u (c.tsinAt bhb i)) (fmul v (c.tcosAt bhb i)) := by
  refine ⟨?_, ?_, ?_, ?_⟩ <;> simp (disch := omega) only [butterfly, lines_at_put_same, lines_at_put_ne]

theorem butterfly_frame {j : Nat} (h : j ∉ [f, f + 1, g, g + 1]) (t : Lines) :
    Lines.at (butterfly c bhb i f g t) j = Lines.at t j := by
  simp only [List.mem_cons, List.not_mem_nil, or_false, not_or] at h
  simp (disch := omega) only [butterfly, lines_at_put_ne]

/-- A butterfly reads its own four cells only. -/
theorem butterfly_reads (c : Config) (bhb i : Nat) (hfg : f + 1 < g) (hg : g + 1 < 256) {t t' : Lines}
    (h : ∀ j ∈ [f, f + 1, g, g + 1], Lines.at t j = Lines.at t' j) :
    ∀ j ∈ [f, f + 1, g, g + 1], Lines.at (butterfly c bhb i f g t) j = Lines.at (butterfly c bhb i f g t') j := by
  obtain ⟨lowEven, lowOdd, highEven, highOdd⟩ := butterfly_cells c bhb i hfg hg t
  obtain ⟨lowEven', lowOdd', highEven', highOdd'⟩ := butterfly_cells c bhb i hfg hg t'
  simp only [List.forall_mem_cons, List.not_mem_nil, false_imp_iff, implies_true, and_true] at h ⊢
  obtain ⟨hf0, hf1, hg0, hg1⟩ := h
  refine ⟨?_, ?_, ?_, ?_⟩
  · rw [lowEven, lowEven', hf0, hg0]
  · rw [lowOdd, lowOdd', hf1, hg1]
  · rw [highEven, highEven', hf0, hf1, hg0, hg1]
  · rw [highOdd, highOdd', hf0, hf1, hg0, hg1]

end

/-- The lower cell `f` of butterfly `p.2` of block `p.1` in stage `st` (R224). -/
def frontCell (b st : Nat) (p : Nat × Nat) : Nat := 2 * (p.1 * 2 ^ (b - 1 - st) + p.2)

/-- The four cells of a butterfly of stage `st`. -/
def butterflyCells (b st : Nat) (p : Nat × Nat) : List Nat :=
  [frontCell b st p, frontCell b st p + 1, frontCell b st p + 2 ^ (b - 1 - st),
    frontCell b st p + 2 ^ (b - 1 - st) + 1]

/-- Butterfly `p.2` of block `p.1` in stage `st`. -/
def stageStep (c : Config) (b st : Nat) (t : Lines) (p : Nat × Nat) : Lines :=
  butterfly c (b - 1 - st - 1) p.2 (frontCell b st p) (frontCell b st p + 2 ^ (b - 1 - st)) t

/-- The butterflies of stage `st`, block by block. -/
def stagePairs (b st : Nat) : List (Nat × Nat) := List.range (2 ^ st) ×ˢ List.range (2 ^ (b - 1 - st - 1))

theorem butterflyStage_eq_foldl (c : Config) (b : Nat) (t : Lines) (st : Nat) :
    butterflyStage c b t st = (stagePairs b st).foldl (stageStep c b st) t := by
  simp only [stagePairs, SProd.sprod, List.product, List.foldl_flatMap, List.foldl_map]
  rfl

theorem mem_stagePairs {b st : Nat} {p : Nat × Nat} :
    p ∈ stagePairs b st ↔ p.1 < 2 ^ st ∧ p.2 < 2 ^ (b - 1 - st - 1) := by
  rw [stagePairs, List.mem_product, List.mem_range, List.mem_range]

section
variable {b st : Nat} {p q : Nat × Nat}

/-- A block's half is two cells for each of its butterflies. -/
theorem halfBlock_eq (hst : st < b - 1) : 2 ^ (b - 1 - st) = 2 * 2 ^ (b - 1 - st - 1) :=
  two_pow_eq_double_half (by omega)

theorem butterflyCells_bounds (hst : st < b - 1) (hb : b ≤ 8) (hp : p ∈ stagePairs b st) :
    frontCell b st p + 1 < frontCell b st p + 2 ^ (b - 1 - st) ∧
    frontCell b st p + 2 ^ (b - 1 - st) + 1 < 256 := by
  obtain ⟨hblk, hi⟩ := mem_stagePairs.mp hp
  have hhalf := halfBlock_eq hst
  have hblocks : (p.1 + 1) * 2 ^ (b - 1 - st) ≤ 2 ^ (b - 1) := by
    calc (p.1 + 1) * 2 ^ (b - 1 - st) ≤ 2 ^ st * 2 ^ (b - 1 - st) := Nat.mul_le_mul_right _ hblk
      _ = 2 ^ (b - 1) := by rw [← Nat.pow_add, Nat.add_sub_cancel' hst.le]
  have hcells := two_pow_le_of_sizeClass hb
  rw [two_pow_eq_double_half (by omega)] at hcells
  rw [Nat.add_one_mul] at hblocks
  rw [frontCell]
  omega

/-- The blocks are disjoint, and so are the butterflies of a block. -/
theorem butterflyCells_disjoint (hst : st < b - 1) (hp : p ∈ stagePairs b st) (hq : q ∈ stagePairs b st) {j : Nat}
    (hjp : j ∈ butterflyCells b st p) (hjq : j ∈ butterflyCells b st q) : p = q := by
  obtain ⟨-, hip⟩ := mem_stagePairs.mp hp
  obtain ⟨-, hiq⟩ := mem_stagePairs.mp hq
  have hhalf := halfBlock_eq hst
  simp only [butterflyCells, frontCell, List.mem_cons, List.not_mem_nil, or_false] at hjp hjq
  rcases Nat.lt_trichotomy p.1 q.1 with hlt | heq | hlt
  · have hblocks : (p.1 + 1) * 2 ^ (b - 1 - st) ≤ q.1 * 2 ^ (b - 1 - st) := Nat.mul_le_mul_right _ hlt
    rw [Nat.add_one_mul] at hblocks
    omega
  · rw [heq] at hjp
    exact Prod.ext heq (by omega)
  · have hblocks : (q.1 + 1) * 2 ^ (b - 1 - st) ≤ p.1 * 2 ^ (b - 1 - st) := Nat.mul_le_mul_right _ hlt
    rw [Nat.add_one_mul] at hblocks
    omega

theorem butterflyStage_ownCells (c : Config) (hst : st < b - 1) (hb : b ≤ 8) :
    OwnCells (stageStep c b st) Lines.at (butterflyCells b st) (stagePairs b st) where
  nodup := List.nodup_range.product List.nodup_range
  disjoint _ hp _ hq _ := butterflyCells_disjoint hst hp hq
  frame _ _ t _ hj := butterfly_frame hj t
  reads p hp _ _ h :=
    have ⟨hfg, hg⟩ := butterflyCells_bounds hst hb hp
    butterfly_reads c _ p.2 hfg hg h

/-- A stage leaves in each cell what the cell's butterfly makes of the stage's input. -/
theorem butterflyStage_at (c : Config) (hst : st < b - 1) (hb : b ≤ 8) (hp : p ∈ stagePairs b st) {j : Nat}
    (hj : j ∈ butterflyCells b st p) (t : Lines) :
    Lines.at (butterflyStage c b t st) j = Lines.at (stageStep c b st t p) j := by
  rw [butterflyStage_eq_foldl]
  exact (butterflyStage_ownCells c hst hb).foldl_cell hp hj t

theorem butterflyStage_cells (c : Config) (hst : st < b - 1) (hb : b ≤ 8) (hp : p ∈ stagePairs b st) (t : Lines) :
    let f := frontCell b st p
    let g := f + 2 ^ (b - 1 - st)
    let bh := b - 1 - st - 1
    let u := fsub (Lines.at t f) (Lines.at t g)
    let v := fsub (Lines.at t (f + 1)) (Lines.at t (g + 1))
    let r := butterflyStage c b t st
    Lines.at r f = fadd (Lines.at t f) (Lines.at t g) ∧
    Lines.at r (f + 1) = fadd (Lines.at t (f + 1)) (Lines.at t (g + 1)) ∧
    Lines.at r g = fadd (fmul u (c.tcosAt bh p.2)) (fmul v (c.tsinAt bh p.2)) ∧
    Lines.at r (g + 1) = fsub (fmul u (c.tsinAt bh p.2)) (fmul v (c.tcosAt bh p.2)) := by
  intro f g bh u v r
  obtain ⟨hfg, hg⟩ := butterflyCells_bounds hst hb hp
  have hr : ∀ j ∈ butterflyCells b st p, Lines.at r j = Lines.at (stageStep c b st t p) j :=
    fun j hj => butterflyStage_at c hst hb hp hj t
  rw [hr f (by simp [butterflyCells, f]), hr (f + 1) (by simp [butterflyCells, f]),
    hr g (by simp [butterflyCells, f, g]), hr (g + 1) (by simp [butterflyCells, f, g])]
  exact butterfly_cells c bh p.2 hfg hg t

end

/-! ### The shuffle with scale and the whole transform (R225) -/

/-- The scratch array before butterfly stage `st`. -/
def beforeStage (c : Config) (b : Nat) (x : Lines) (st : Nat) : Lines :=
  (List.range st).foldl (butterflyStage c b) (preRotate c b x)

theorem beforeStage_succ (c : Config) (b : Nat) (x : Lines) (st : Nat) :
    beforeStage c b x (st + 1) = butterflyStage c b (beforeStage c b x st) st := by
  rw [beforeStage, List.range_succ, List.foldl_append, List.foldl_cons, List.foldl_nil, beforeStage]

theorem shuffleScale_at (c : Config) {b k : Nat} (hb : b ≤ 8) (hk : k < 2 ^ b) (t : Lines) :
    Lines.at (shuffleScale c b t) k = fmul (Lines.at t (shufRom b k)) (c.imdctScale b) := by
  have hcells := two_pow_le_of_sizeClass hb
  rw [shuffleScale, lines_at_fill, if_pos (by omega), Nat.sub_zero]

/-- Settles O44: within a pass no iteration touches another's cells, so each cell is what its own iteration makes of the
pass's input. -/
theorem dct4RunsItsThreePasses : Obligations.Dct4RunsItsThreePasses := by
  intro c b x hsize
  have hb1 : 1 ≤ b := by omega
  have hb : b ≤ 8 := by omega
  refine ⟨beforeStage c b x, fun i => preRotate_cells c x hb1 hb, ?_, fun k hk => shuffleScale_at c hb hk _⟩
  rintro st bh blk i f g hst rfl hblk hi rfl rfl
  rw [beforeStage_succ]
  exact butterflyStage_cells c hst hb (p := (blk, i)) (mem_stagePairs.mpr ⟨hblk, hi⟩) _

/-! ### The overlap-add (R227) -/

section
variable {c : Config} {b i : Nat} {u : Lines}

/-- Cell `j` of `PCM[c]` and of the overlap buffer. -/
def pairAt (e : Lines × Lines) (j : Nat) : Word × Word := (Lines.at e.1 j, Lines.at e.2 j)

/-- What iteration `i` leaves in its cells i and i + H. -/
theorem overlapStep_cells (c : Config) (u : Lines) (e : Lines × Lines) (hb1 : 1 ≤ b) (hb : b ≤ 8)
    (hi : i < 2 ^ (b - 1)) :
    let h := 2 ^ (b - 1)
    pairAt (overlapStep c b u e i) i =
      (fadd (fmul (c.window b i) (Lines.at u (i + h))) (Lines.at e.2 i),
       fmul (c.window b (2 ^ b - 1 - i)) (fneg (Lines.at u (h - 1 - i)))) ∧
    pairAt (overlapStep c b u e i) (i + h) =
      (fsub (fmul (c.window b (i + h)) (fneg (Lines.at u (2 ^ b - 1 - i)))) (Lines.at e.2 (i + h)),
       fmul (c.window b (h - 1 - i)) (Lines.at u i)) := by
  have hcells := two_pow_le_of_sizeClass hb
  rw [two_pow_eq_double_half hb1] at hcells
  constructor <;> simp (disch := omega) only [pairAt, overlapStep, lines_at_put_same, lines_at_put_ne]

theorem overlapStep_frame {j : Nat} (h : j ∉ [i, i + 2 ^ (b - 1)]) (e : Lines × Lines) :
    pairAt (overlapStep c b u e i) j = pairAt e j := by
  simp only [List.mem_cons, List.not_mem_nil, or_false, not_or] at h
  simp (disch := omega) only [pairAt, overlapStep, lines_at_put_ne]

/-- Iteration `i` of the overlap-add has the cells i and i + H. -/
theorem overlapAdd_ownCells (c : Config) (u : Lines) (hb1 : 1 ≤ b) (hb : b ≤ 8) :
    OwnCells (overlapStep c b u) pairAt (fun i => [i, i + 2 ^ (b - 1)]) (List.range (2 ^ (b - 1))) where
  nodup := List.nodup_range
  disjoint i hi k hk j hji hjk := by
    rw [List.mem_range] at hi hk
    simp only [List.mem_cons, List.not_mem_nil, or_false] at hji hjk
    omega
  frame i _ e j hj := overlapStep_frame hj e
  reads i hi e e' hread j hj := by
    rw [List.mem_range] at hi
    obtain ⟨hlow, hhigh⟩ := overlapStep_cells c u e hb1 hb hi
    obtain ⟨hlow', hhigh'⟩ := overlapStep_cells c u e' hb1 hb hi
    have hold : ∀ m ∈ [i, i + 2 ^ (b - 1)], Lines.at e.2 m = Lines.at e'.2 m :=
      fun m hm => congrArg Prod.snd (hread m hm)
    simp only [List.mem_cons, List.not_mem_nil, or_false] at hj
    rcases hj with rfl | rfl
    · rw [hlow, hlow', hold _ (by simp)]
    · rw [hhigh, hhigh', hold _ (by simp)]

theorem overlapAdd_cells (c : Config) (u pcm p : Lines) (hb1 : 1 ≤ b) (hb : b ≤ 8) (hi : i < 2 ^ (b - 1)) :
    let h := 2 ^ (b - 1)
    pairAt (overlapAdd c b u pcm p) i =
      (fadd (fmul (c.window b i) (Lines.at u (i + h))) (Lines.at p i),
       fmul (c.window b (2 ^ b - 1 - i)) (fneg (Lines.at u (h - 1 - i)))) ∧
    pairAt (overlapAdd c b u pcm p) (i + h) =
      (fsub (fmul (c.window b (i + h)) (fneg (Lines.at u (2 ^ b - 1 - i)))) (Lines.at p (i + h)),
       fmul (c.window b (h - 1 - i)) (Lines.at u i)) := by
  intro h
  have hloop := overlapAdd_ownCells c u hb1 hb
  have hmem := List.mem_range.mpr hi
  rw [overlapAdd, hloop.foldl_cell hmem (by simp), hloop.foldl_cell hmem (by simp [h])]
  exact overlapStep_cells c u (pcm, p) hb1 hb hi

/-- Cells from N up belong to no iteration. -/
theorem overlapAdd_frame (c : Config) (u pcm p : Lines) (hb1 : 1 ≤ b) (hb : b ≤ 8) {j : Nat} (hj : 2 ^ b ≤ j) :
    pairAt (overlapAdd c b u pcm p) j = pairAt (pcm, p) j := by
  refine (overlapAdd_ownCells c u hb1 hb).foldl_frame (fun i hi hji => ?_) (pcm, p)
  rw [two_pow_eq_double_half hb1] at hj
  rw [List.mem_range] at hi
  simp only [List.mem_cons, List.not_mem_nil, or_false] at hji
  omega

end

/-- Settles O45: iteration `i` alone touches the cells i and i + H of `PCM[c]` and `P`. -/
theorem overlapAddWindowsAndAddsThePreviousHalf : Obligations.OverlapAddWindowsAndAddsThePreviousHalf := by
  rintro c b n h u pcm p hsize rfl hhalf
  have hb1 : 1 ≤ b := by omega
  have hb : b ≤ 8 := by omega
  obtain rfl : h = 2 ^ (b - 1) := by
    rw [hhalf, two_pow_eq_double_half hb1, Nat.mul_div_cancel_left _ Nat.two_pos]
  refine ⟨fun i hi => ?_, fun i hi => Prod.ext_iff.mp (overlapAdd_frame c u pcm p hb1 hb hi)⟩
  obtain ⟨hlow, hhigh⟩ := overlapAdd_cells c u pcm p hb1 hb hi
  obtain ⟨hpcmLow, hprevLow⟩ := Prod.ext_iff.mp hlow
  obtain ⟨hpcmHigh, hprevHigh⟩ := Prod.ext_iff.mp hhigh
  exact ⟨hpcmLow, hpcmHigh, hprevLow, hprevHigh⟩

end Sys2Proof.Proofs.Imdct
end

section
/-! What several commands share: the sizes of the RAMs and of a frame, and what an error reports (R60, R258, R270 to R272). -/

namespace Sys2Proof.Proofs.Common

open Sys2Proof.Machine Sys2Proof.Claims

variable {s : State} {unspec : Raise → State → State} {e : Raise}

/-- The bounds of a configuration that keep positions and lengths inside their registers (log 7). -/
theorem header_bounds (c : ValidConfig) :
    c.rom.inBufBytes ≤ 65536 ∧ c.rom.outBufBytes ≤ 131072 ∧ c.rom.flenAdj < 2 ^ 28 := by
  have hwf := c.ok
  simp only [Config.wf, Config.headerOk, Bool.and_eq_true, decide_eq_true_eq] at hwf
  obtain ⟨⟨⟨⟨⟨⟨⟨⟨⟨⟨⟨-, hadj⟩, -⟩, -⟩, hin⟩, hout⟩, -⟩, -⟩, -⟩, -⟩, -⟩, -⟩ := hwf
  exact ⟨hin, hout, hadj⟩

theorem fatal_eq_code_ne (e : ErrCode) : e.fatal = (e.code != 1) := by cases e <;> rfl

/-- An error sets the flags and the error registers as R271 and R272 say. -/
theorem reports_fail (hk : Keeps s (unspec e s)) : reports s (s.fail unspec e) e.err.code e.pos := by
  refine ⟨?_, rfl, (fail_errCmd e).trans hk.kept.cmdLast⟩
  rw [fail_status, hk.kept.status, ← fatal_eq_code_ne]
  rfl

/-- `SYNC` is recoverable (R246, R270). -/
theorem fail_fatal_of_sync (hk : Keeps s (unspec e s)) (he : e.err = .sync) :
    (s.fail unspec e).status.fatal = s.status.fatal := by
  rw [fail_status, hk.kept.status, he, status_raise_fatal]
  exact Bool.or_false _

end Sys2Proof.Proofs.Common
end

section
/-! `INIT` a second time (R243). -/

namespace Sys2Proof.Proofs.Init

open Sys2Proof.Machine Sys2Proof.Claims

/-- The lookup tables are a function of `HUFF_ROM` alone (R243). -/
theorem buildLuts_congr {c d : Config} (h : c.huffRom = d.huffRom) : buildLuts c = buildLuts d := by
  have hhuff : c.huff = d.huff := funext fun t => by rw [Config.huff, Config.huff, h]
  rw [buildLuts, buildLuts, hhuff]

/-- Building the tables does not read what `INIT` writes, so doing it again changes nothing. -/
theorem initTables_complete_idem (s : State) :
    (initTables (initTables s).complete).complete = (initTables s).complete := rfl

theorem exec_init_next {s t : State} (h : exec .init s = .next t) : t = (initTables s).complete := by
  cases h
  rfl

/-- Settles O20: `INIT` writes what `HUFF_ROM` alone determines, and nothing of the overlap state. -/
theorem initIsIdempotent : Obligations.InitIsIdempotent := by
  intro s t h
  obtain rfl := exec_init_next h
  refine ⟨congrArg Host.Outcome.next (initTables_complete_idem s), rfl, rfl, fun s' t' hrom h' => ?_⟩
  obtain rfl := exec_init_next h'
  exact buildLuts_congr hrom

end Sys2Proof.Proofs.Init
end

section
/-! PCM output: the sample conversion (R250) and the layout of one frame in `OUT_BUF` (R251, R252). -/

namespace Sys2Proof.Proofs.PcmOut

open Sys2Proof.Machine Sys2Proof.Claims Sys2Proof.Proofs.Common

/-! ### The sample conversion (R250) -/

/-- `⌊m/2^149 + 1/2⌋` is the nearest integer to `m/2^149`, the larger one at a half. -/
theorem floor_add_half_nearest (m : Nat) :
    2 * |((m : Int) + 2 ^ 148) / 2 ^ 149 * 2 ^ 149 - m| ≤ 2 ^ 149 ∧
    (2 * |((m : Int) + 2 ^ 148) / 2 ^ 149 * 2 ^ 149 - m| = 2 ^ 149 →
      |(m : Int)| < |((m : Int) + 2 ^ 148) / 2 ^ 149| * 2 ^ 149) := by
  generalize hq : ((m : Int) + 2 ^ 148) / 2 ^ 149 = q
  have hq0 : 0 ≤ q := by omega
  rw [abs_of_nonneg hq0, abs_of_nonneg (Int.natCast_nonneg m)]
  rcases le_total 0 (q * 2 ^ 149 - m) with h | h
  · rw [abs_of_nonneg h]
    omega
  · rw [abs_of_nonpos h]
    omega

theorem roundHalfAway_eq (v : Word) :
    roundHalfAway v = (if fpSign v then -1 else 1) * (((fpMag v : Int) + 2 ^ 148) / 2 ^ 149) := by
  simp only [roundHalfAway, Nat.shiftRight_eq_div_pow]
  split <;> simp

theorem fpInt_eq (v : Word) : fpInt v = (if fpSign v then -1 else 1) * (fpMag v : Int) := by
  rw [fpInt]
  split <;> simp

/-- Rounding is symmetric in the sign, so the halves go away from zero. -/
theorem roundHalfAway_nearest (v : Word) :
    2 * |roundHalfAway v * 2 ^ 149 - fpInt v| ≤ 2 ^ 149 ∧
    (2 * |roundHalfAway v * 2 ^ 149 - fpInt v| = 2 ^ 149 → |fpInt v| < |roundHalfAway v| * 2 ^ 149) := by
  have hsign : |(if fpSign v then -1 else 1 : Int)| = 1 := by split <;> rfl
  rw [roundHalfAway_eq, fpInt_eq, mul_assoc, ← mul_sub, abs_mul, abs_mul, abs_mul, hsign]
  simpa only [one_mul] using floor_add_half_nearest (fpMag v)

theorem fpToI16_of_finite {v : Word} (h : finite v) : fpToI16 v = max (-32768) (min 32767 (roundHalfAway v)) := by
  have hnan : fpIsNaN v = false := by rw [fpIsNaN, beq_false_of_ne h, Bool.false_and]
  rw [fpToI16, hnan, if_neg Bool.false_ne_true]

/-- Settles O42: a finite value is rounded by its magnitude and then clamped; the infinities lie beyond the clamps. -/
theorem sampleConversionRoundsHalfAwayFromZero : Obligations.SampleConversionRoundsHalfAwayFromZero := by
  intro v
  refine ⟨fun hnan => if_pos hnan, ?_, ?_, fun hfin => ?_⟩
  · rintro rfl
    decide
  · rintro rfl
    decide
  · obtain ⟨hnear, haway⟩ := roundHalfAway_nearest v
    exact ⟨roundHalfAway v, hnear, haway, fpToI16_of_finite hfin⟩

/-! ### Little-endian samples (R64, R65) -/

theorem leBytes_getElem? {n j : Nat} (h : j < n) (w : Word) : (leBytes n w)[j]? = some (w.extractLsb' (8 * j) 8) := by
  simp [leBytes, h]

theorem low_two_bytes (w : Word) : w.extractLsb' 8 8 ++ w.extractLsb' 0 8 = w.setWidth 16 := by
  rw [BitVec.extractLsb'_append_extractLsb'_eq_extractLsb' (start₂ := 8) (len₁ := 8) rfl]
  exact (BitVec.setWidth_eq_extractLsb' (by decide)).symm

theorem four_bytes (w : Word) :
    w.extractLsb' 24 8 ++ w.extractLsb' 16 8 ++ w.extractLsb' 8 8 ++ w.extractLsb' 0 8 = w := by
  rw [BitVec.extractLsb'_append_extractLsb'_eq_extractLsb' (start₂ := 24) (len₁ := 8) rfl,
    BitVec.extractLsb'_append_extractLsb'_eq_extractLsb' (start₂ := 16) (len₁ := 8) rfl,
    BitVec.extractLsb'_append_extractLsb'_eq_extractLsb' (start₂ := 8) (len₁ := 8) rfl]
  exact BitVec.extractLsb'_eq_self

/-- An `I16` sample keeps its value in the low half of the word it is cut from. -/
theorem setWidth_ofInt_fpToI16 (v : Word) : (Word.ofInt (fpToI16 v)).setWidth 16 = i16Bits v := by
  apply BitVec.eq_of_toNat_eq
  simp only [Word.ofInt, i16Bits, BitVec.toNat_setWidth, BitVec.toNat_ofInt]
  omega

/-! ### Where a sample stands in the frame's data (R252) -/

/-- Blocks of one length `m`, one after the other: byte `j` of block `k` is at index k·m + j. -/
theorem getElem?_flatMap_range {α : Type} {f : Nat → List α} {m n k j : Nat} (hf : ∀ i, (f i).length = m) (hk : k < n)
    (hj : j < m) : ((List.range n).flatMap f)[k * m + j]? = (f k)[j]? := by
  induction n with
  | zero => exact absurd hk (Nat.not_lt_zero k)
  | succ n ih =>
    have hlen : ((List.range n).flatMap f).length = n * m := by simp [List.length_flatMap, hf]
    rw [List.range_succ, List.flatMap_append, List.flatMap_singleton]
    rcases Nat.lt_succ_iff_lt_or_eq.mp hk with hlt | rfl
    · have hend : (k + 1) * m ≤ n * m := Nat.mul_le_mul_right m hlt
      rw [List.getElem?_append_left (by rw [hlen]; rw [Nat.succ_mul] at hend; omega), ih hlt]
    · rw [List.getElem?_append_right (by rw [hlen]; omega), hlen, Nat.add_sub_cancel_left]

variable {s t : State}

/-- The slot that a frame's rule numbers `k` is channel slot `k` (R40). -/
theorem ofNat_eq_slot (k : Nat) : Sys2Proof.Chan.ofNat k = slot k := by cases k <;> rfl

theorem length_framePoint (s : State) (n : Nat) : (s.framePoint n).length = s.geom.nch.toNat * s.sampleBytes := by
  simp [State.framePoint, List.length_flatMap, length_sampleData]

/-- Sample `k` of channel `ch` is sample k·NCH + ch of the frame's data (R252). -/
theorem pcmData_getElem? {k ch j : Nat} (hk : k < 2 ^ s.geom.fbits.toNat) (hch : ch < s.geom.nch.toNat)
    (hj : j < s.sampleBytes) : s.pcmData[(k * s.geom.nch.toNat + ch) * s.sampleBytes + j]? =
      (sampleData s.ctrl.outFmt (Lines.at (s.chan (slot ch)).pcm k))[j]? := by
  have hpoint : ch * s.sampleBytes + j < s.geom.nch.toNat * s.sampleBytes := by
    have := Nat.mul_le_mul_right s.sampleBytes (Nat.succ_le_of_lt hch)
    rw [Nat.succ_mul] at this
    omega
  rw [show (k * s.geom.nch.toNat + ch) * s.sampleBytes + j =
      k * (s.geom.nch.toNat * s.sampleBytes) + (ch * s.sampleBytes + j) by ring,
    State.pcmData, getElem?_flatMap_range (length_framePoint s) hk hpoint, State.framePoint,
    getElem?_flatMap_range (fun _ => length_sampleData s _) hch hj, ofNat_eq_slot]

/-! ### `OUT_BUF` after a write -/

theorem outByte_of_getElem? {a i : Nat} {bs : List Byte} {b : Byte} (ht : t.outBuf = s.outBuf.putBytes a bs)
    (h : bs[i]? = some b) : t.outByte (a + i) = b := by
  obtain ⟨hi, rfl⟩ := List.getElem?_eq_some_iff.mp h
  rw [State.outByte, ht, get?_putBytes_at _ _ _ hi, Option.getD_some]

theorem outByte_outside {a a' : Nat} {bs : List Byte} (ht : t.outBuf = s.outBuf.putBytes a bs)
    (he : t.ramEpoch = s.ramEpoch) (h : a' < a ∨ a + bs.length ≤ a') : t.outByte a' = s.outByte a' := by
  rw [State.outByte, State.outByte, ht, he, get?_putBytes_other _ _ _ h]

/-- A multiple of 4 that fits a word is stored in `OUT_PTR` as it is (R36). -/
theorem outPtrWord_of_multiple {x : Nat} (ht : t.outPtr = (Word.ofNat x).extractLsb' 2 30) (h4 : 4 ∣ x)
    (hx : x < 2 ^ 32) : t.outPtrWord.toNat = x := by
  rw [State.outPtrWord, ht, BitVec.toNat_append, BitVec.extractLsb'_toNat, BitVec.toNat_ofNat, BitVec.toNat_ofNat,
    Nat.mod_eq_of_lt hx, Nat.shiftRight_eq_div_pow, Nat.shiftLeft_eq, Nat.zero_mod, Nat.or_zero]
  omega

theorem four_dvd_outPtrByte (s : State) : 4 ∣ s.outPtrByte := by
  rw [State.outPtrByte, State.outPtrWord, BitVec.toNat_append, Nat.shiftLeft_eq]
  exact ⟨s.outPtr.toNat, by simp [Nat.mul_comm]⟩

/-! ### When `PCM_OUT` runs, and what it reports (R252) -/

theorem sizeOk_iff (x : BitVec 4) : sizeOk x.toNat = true ↔ x = 7 ∨ x = 8 := by
  revert x
  decide

theorem four_dvd_pcmBytes (hf : sizeOk s.geom.fbits.toNat = true) : 4 ∣ s.pcmBytes := by
  have hn : 4 ∣ 2 ^ s.geom.fbits.toNat := by
    rcases (sizeOk_iff _).mp hf with h | h <;> rw [h] <;> decide
  exact ((hn.mul_left _).mul_right _)

theorem pcmOutRule_indexRange (hn1 : s.geom.nch.toNat ≠ 1) (hn2 : s.geom.nch.toNat ≠ 2) :
    pcmOutRule s = .error (s.raiseHere .indexRange) :=
  if_pos (not_or.mpr ⟨hn1, hn2⟩)

section
variable (hn : s.geom.nch.toNat = 1 ∨ s.geom.nch.toNat = 2)
include hn

theorem pcmOutRule_badSize (hf : sizeOk s.geom.fbits.toNat = false) :
    pcmOutRule s = .error (s.raiseHere .badSize) :=
  (if_neg (not_not.mpr hn)).trans (if_pos hf)

theorem pcmOutRule_outRange (hf : sizeOk s.geom.fbits.toNat = true)
    (hroom : s.rom.outBufBytes < s.outPtrByte + s.pcmBytes) : pcmOutRule s = .error (s.raiseHere .outRange) :=
  (if_neg (not_not.mpr hn)).trans ((if_neg (by simp [hf])).trans (if_pos hroom))

/-- What `PCM_OUT` stores when the frame fits. -/
theorem pcmOutRule_ok (hf : sizeOk s.geom.fbits.toNat = true)
    (hroom : s.outPtrByte + s.pcmBytes ≤ s.rom.outBufBytes) :
    pcmOutRule s = .ok ({ s with outBuf := s.outBuf.putBytes s.outPtrByte s.pcmData }.setOutPtr
      (Word.ofNat (s.outPtrByte + s.pcmBytes))) :=
  (if_neg (not_not.mpr hn)).trans ((if_neg (by simp [hf])).trans (if_neg (not_lt.mpr hroom)))

end

/-- An error of `PCM_OUT` changes nothing but the flags and the error registers (R252, R276). -/
theorem exec_pcmOut_error {e : ErrCode} (hi : s.status.initDone = true)
    (h : pcmOutRule s = .error (s.raiseHere e)) :
    ∃ t, exec .pcmOut s = .next t ∧ reports s t e.code (cursor s) ∧ onlyFlags s t :=
  ⟨_, runCommand_error hi h, reports_fail (keeps_refl s), rfl⟩

/-- The bytes of one stored sample, put together again (R251, R252). -/
theorem sample_stored {k ch : Nat} (ht : t.outBuf = s.outBuf.putBytes s.outPtrByte s.pcmData)
    (hk : k < 2 ^ s.geom.fbits.toNat) (hch : ch < s.geom.nch.toNat) :
    let a := s.outPtrByte + (k * s.geom.nch.toNat + ch) * s.sampleBytes
    let v := Lines.at (s.chan (slot ch)).pcm k
    (s.sampleBytes = 2 → t.outByte (a + 1) ++ t.outByte a = i16Bits v) ∧
    (s.sampleBytes = 4 → t.outByte (a + 3) ++ t.outByte (a + 2) ++ t.outByte (a + 1) ++ t.outByte a = v) := by
  intro a v
  have hbyte {j : Nat} {b : Byte} (hj : j < s.sampleBytes) (hb : (sampleData s.ctrl.outFmt v)[j]? = some b) :
      t.outByte (a + j) = b := by
    rw [Nat.add_assoc]
    exact outByte_of_getElem? ht ((pcmData_getElem? hk hch hj).trans hb)
  cases hfmt : s.ctrl.outFmt with
  | false =>
    have hsz : s.sampleBytes = 2 := by simp [State.sampleBytes, hfmt]
    have hdata {j : Nat} (hj : j < 2) : t.outByte (a + j) = (Word.ofInt (fpToI16 v)).extractLsb' (8 * j) 8 :=
      hbyte (hsz ▸ hj) (by rw [hfmt]; exact leBytes_getElem? hj _)
    refine ⟨fun _ => ?_, fun h4 => absurd (hsz.symm.trans h4) (by decide)⟩
    have hfirst := hdata (j := 0) (by decide)
    rw [Nat.add_zero] at hfirst
    rw [hdata (j := 1) (by decide), hfirst, low_two_bytes, setWidth_ofInt_fpToI16]
  | true =>
    have hsz : s.sampleBytes = 4 := by simp [State.sampleBytes, hfmt]
    have hdata {j : Nat} (hj : j < 4) : t.outByte (a + j) = v.extractLsb' (8 * j) 8 :=
      hbyte (hsz ▸ hj) (by rw [hfmt]; exact leBytes_getElem? hj _)
    refine ⟨fun h2 => absurd (hsz.symm.trans h2) (by decide), fun _ => ?_⟩
    have hfirst := hdata (j := 0) (by decide)
    rw [Nat.add_zero] at hfirst
    rw [hdata (j := 3) (by decide), hdata (j := 2) (by decide), hdata (j := 1) (by decide), hfirst,
      four_bytes]

/-- Settles O49: the frame's data is a list of samples of one length, so each stands at its multiple of that length. -/
theorem pcmOutInterleavesTheSamples : Obligations.PcmOutInterleavesTheSamples := by
  rintro s _ _ _ _ hi rfl rfl rfl rfl
  refine ⟨fun hn hf hroom => ?_, fun hn1 hn2 => ?_, fun hn hf7 hf8 => ?_, fun hn hf hroom => ?_⟩
  · rw [← sizeOk_iff] at hf
    refine ⟨_, runCommand_ok hi (pcmOutRule_ok hn hf hroom), rfl, ?_, fun k ch hk hch => ?_, fun a ha => ?_⟩
    · refine outPtrWord_of_multiple rfl (dvd_add (four_dvd_outPtrByte s) (four_dvd_pcmBytes hf)) ?_
      exact lt_of_le_of_lt (hroom.trans (header_bounds s.cfg).2.1) (by decide)
    · exact sample_stored rfl hk hch
    · exact outByte_outside rfl rfl (by rw [length_pcmData]; exact ha)
  · exact exec_pcmOut_error hi (pcmOutRule_indexRange hn1 hn2)
  · refine exec_pcmOut_error hi (pcmOutRule_badSize hn (Bool.eq_false_iff.mpr fun h => ?_))
    exact ((sizeOk_iff _).mp h).elim hf7 hf8
  · exact exec_pcmOut_error hi (pcmOutRule_outRange hn ((sizeOk_iff _).mpr hf) hroom)

end Sys2Proof.Proofs.PcmOut
end

section
/-! The frame as a whole: the sync error (R246), and how far a frame's cursor goes (R260). -/

namespace Sys2Proof.Proofs.Frame

open Sys2Proof.Machine Sys2Proof.Claims Sys2Proof.Proofs.Common Sys2Proof.Proofs.Huffman

variable {s t u : State} {c : Chan} {p q r : Nat}

/-! ### The sync error (R246) -/

theorem parseHeaderRule_sync (hr : cursor s + 8 ≤ s.limitBits) (hne : s.field (cursor s) 8 ≠ s.rom.syncWord) :
    parseHeaderRule s = .error (s.raiseHere .sync) := by
  have hsync : s.read (cursor s) Config.syncBits = .ok (s.field (cursor s) 8, cursor s + 8) :=
    read_ok ⟨by decide, .inr hr⟩
  rw [parseHeaderRule, hsync, ok_bind]
  exact if_pos hne

/-- The header is the first thing a frame reads, and its sync error ends the frame (R253). -/
theorem decodeFrameRule_sync (hr : cursor s + 8 ≤ s.limitBits) (hne : s.field (cursor s) 8 ≠ s.rom.syncWord) :
    decodeFrameRule s = .error (s.raiseHere .sync) := by
  have hfield := field_congr (s := { s with bytesConsumed := 0 }) (t := s) rfl rfl (cursor s) 8
  have hheader := parseHeaderRule_sync (s := { s with bytesConsumed := 0 }) hr (hfield ▸ hne)
  rw [decodeFrameRule, hheader, error_bind]
  rfl

/-- Settles O28: the sync field is the first field read, and `SYNC` leaves no cell unspecified. -/
theorem aSyncErrorConsumesNothing : Obligations.ASyncErrorConsumesNothing := by
  intro s hi hr hne
  exact ⟨⟨_, runCommand_error hi (parseHeaderRule_sync hr hne), reports_fail (keeps_unspecHeader _ s),
      fail_fatal_of_sync (keeps_unspecHeader _ s) rfl, rfl⟩,
    ⟨_, runCommand_error hi (decodeFrameRule_sync hr hne), reports_fail (keeps_unspecFrame _ s),
      fail_fatal_of_sync (keeps_unspecFrame _ s) rfl, rfl⟩⟩

/-! ### Reads go forward and stay below the limit (R110, R112, R120) -/

/-- From position `p` reads lead forward to `q`, and not beyond the readable limit. -/
def Advances (s : State) (p q : Nat) : Prop := p ≤ q ∧ (p ≤ s.limitBits → q ≤ s.limitBits)

theorem Advances.refl (s : State) (p : Nat) : Advances s p p := ⟨le_rfl, id⟩

theorem Advances.trans (h : Advances s p q) (k : Advances s q r) : Advances s p r :=
  ⟨h.1.trans k.1, fun hp => k.2 (h.2 hp)⟩

/-- Consuming at most as many bits as are readable. -/
theorem advances_of_readable {n m : Nat} (h : s.readable p n) (hm : m ≤ n) : Advances s p (p + m) :=
  ⟨Nat.le_add_right p m, fun hp => by rcases h.2 with rfl | hn <;> omega⟩

theorem read_advances {n : Nat} {v : Nat × Nat} (h : s.read p n = .ok v) : Advances s p v.2 := by
  obtain ⟨hr, rfl⟩ := read_inv h
  exact advances_of_readable hr le_rfl

theorem readSigned_advances {n : Nat} {v : Int × Nat} (h : s.readSigned p n = .ok v) : Advances s p v.2 := by
  obtain ⟨hr, rfl⟩ := readSigned_inv h
  exact advances_of_readable hr le_rfl

theorem readMany_advances {w k : Nat} {v : List Nat × Nat} (h : s.readMany w k p = .ok v) : Advances s p v.2 := by
  induction k generalizing p v with
  | zero => cases h; exact .refl s p
  | succ k ih =>
    simp only [State.readMany, bind_ok] at h
    obtain ⟨first, hfirst, rest, hrest, h⟩ := h
    cases h
    exact (read_advances hfirst).trans (ih hrest :)

theorem readManySigned_advances {w k : Nat} {v : List Int × Nat} (h : s.readManySigned w k p = .ok v) :
    Advances s p v.2 := by
  induction k generalizing p v with
  | zero => cases h; exact .refl s p
  | succ k ih =>
    simp only [State.readManySigned, bind_ok] at h
    obtain ⟨first, hfirst, rest, hrest, h⟩ := h
    cases h
    exact (readSigned_advances hfirst).trans (ih hrest :)

/-- A code is no longer than the window it is looked up in (R91, R133). -/
theorem huffAt_advances {id : Nat} {v : Int × Nat} (h : s.huffAt p id = .ok v) : Advances s p v.2 := by
  obtain ⟨i, hi, hr, rfl⟩ := huffAt_inv h
  by_cases hid : id ≤ 12
  · exact advances_of_readable hr ((wellFormedCodebook_huff s.cfg hid).len_le i)
  · have hnone : s.hlut.getD id [] = [] := by simp [Vector.getD, show 13 ≤ id by omega]
    rw [hnone] at hi
    cases hi

/-! ### The same for each group of fields -/

theorem gradientFields_advances {gmode : Nat} {f : GradientFields} (h : s.gradientFields gmode p = .ok f) :
    Advances s p f.pos := by
  unfold State.gradientFields at h
  split at h
  · simp only [State.gradientDirect, bind_ok] at h
    obtain ⟨gsu, hgsu, geu, hgeu, gsv, hgsv, gev, hgev, h⟩ := h
    cases h
    exact (((read_advances hgsu).trans (read_advances hgeu)).trans (read_advances hgsv)).trans (read_advances hgev)
  · simp only [State.gradientFixedEnd, bind_ok] at h
    obtain ⟨gsu, hgsu, gsv, hgsv, h⟩ := h
    cases h
    exact (read_advances hgsu).trans (read_advances hgsv)

theorem sfChain_advances {bl k : Nat} {prev : Int} {v : List Int × Nat} (h : s.sfChain bl k prev p = .ok v) :
    Advances s p v.2 := by
  induction k generalizing prev p v with
  | zero => cases h; exact .refl s p
  | succ k ih =>
    simp only [State.sfChain, bind_ok] at h
    obtain ⟨d, hd, rest, hrest, h⟩ := h
    cases h
    exact (huffAt_advances hd).trans (ih hrest :)

theorem sfCodedValues_advances {bl nqu : Nat} {v : List Int × Nat} (h : s.sfCodedValues bl nqu p = .ok v) :
    Advances s p v.2 := by
  cases nqu with
  | zero => cases h; exact .refl s p
  | succ k =>
    simp only [State.sfCodedValues, bind_ok] at h
    obtain ⟨first, hfirst, rest, hrest, h⟩ := h
    cases h
    exact (read_advances hfirst).trans (sfChain_advances hrest :)

theorem sfDeltas_advances {id k i : Nat} {v : List Int × Nat} (h : s.sfDeltas id k i p = .ok v) :
    Advances s p v.2 := by
  induction k generalizing i p v with
  | zero => cases h; exact .refl s p
  | succ k ih =>
    simp only [State.sfDeltas, bind_ok] at h
    obtain ⟨d, hd, rest, hrest, h⟩ := h
    cases h
    exact (huffAt_advances hd).trans (ih hrest :)

theorem schemeA_advances {cfg : SfCfg} {v : SfResult} (h : s.schemeA cfg p = .ok v) : Advances s p v.pos := by
  simp only [State.schemeA, bind_ok] at h
  obtain ⟨sel, hsel, off, hoff, wt, hwt, raw, hraw, h⟩ := h
  cases h
  exact (((read_advances hsel).trans (read_advances hoff)).trans (read_advances hwt)).trans (sfCodedValues_advances hraw)

theorem schemeB_advances {cfg : SfCfg} {v : SfResult} (h : s.schemeB cfg p = .ok v) : Advances s p v.pos := by
  simp only [State.schemeB, bind_ok] at h
  obtain ⟨sel, hsel, h⟩ := h
  split at h
  · simp only [bind_ok] at h
    obtain ⟨raw, hraw, h⟩ := h
    cases h
    exact (read_advances hsel).trans (readMany_advances hraw)
  · simp only [bind_ok] at h
    obtain ⟨off, hoff, wt, hwt, raw, hraw, h⟩ := h
    cases h
    exact (((read_advances hsel).trans (read_advances hoff)).trans (read_advances hwt)).trans (readMany_advances hraw)

theorem schemeC_advances {cfg : SfCfg} {v : SfResult} (h : s.schemeC cfg p = .ok v) : Advances s p v.pos := by
  simp only [State.schemeC, bind_ok] at h
  obtain ⟨sel, hsel, d, hd, h⟩ := h
  cases h
  exact (read_advances hsel).trans (sfDeltas_advances hd)

theorem sfScheme_advances {mode : Nat} {l : LocalCh} {cfg : SfCfg} {v : SfResult}
    (h : s.sfScheme mode l cfg p = .ok v) : Advances s p v.pos := by
  unfold State.sfScheme at h
  split at h
  · exact schemeA_advances h
  · cases l with
    | l0 => exact schemeB_advances h
    | l1 => exact schemeC_advances h

theorem joint2At_advances {v : List Int × Nat} (h : s.joint2At p = .ok v) : Advances s p v.2 := by
  simp only [State.joint2At, bind_ok] at h
  obtain ⟨k, hk, h⟩ := h
  split at h
  · cases h
  · cases h
    exact read_advances hk

theorem joint4At_advances {v : List Int × Nat} (h : s.joint4At p = .ok v) : Advances s p v.2 := by
  simp only [State.joint4At, bind_ok] at h
  obtain ⟨k, hk, h⟩ := h
  split at h
  · cases h
  · cases h
    exact read_advances hk

theorem joint4Groups_advances {g : Nat} {v : List Int × Nat} (h : s.joint4Groups g p = .ok v) : Advances s p v.2 := by
  induction g generalizing p v with
  | zero => cases h; exact .refl s p
  | succ g ih =>
    simp only [State.joint4Groups, bind_ok] at h
    obtain ⟨first, hfirst, rest, hrest, h⟩ := h
    cases h
    exact (joint4At_advances hfirst).trans (ih hrest :)

theorem unitLines_advances {prec n : Nat} {v : List Int × Nat} (h : s.unitLines prec n p = .ok v) :
    Advances s p v.2 := by
  unfold State.unitLines at h
  split at h
  · split at h
    · exact joint2At_advances h
    · exact joint4Groups_advances h
  · exact readManySigned_advances h

theorem specUnits_advances {prec : Units} {is : List Nat} {lines : Lines} {v : Lines × Nat}
    (h : s.specUnits prec is lines p = .ok v) : Advances s p v.2 := by
  induction is generalizing lines p with
  | nil => cases h; exact .refl s p
  | cons i is ih =>
    simp only [State.specUnits, bind_ok] at h
    obtain ⟨k, -, unit, hunit, h⟩ := h
    exact (unitLines_advances hunit).trans (ih h)

theorem fineUnits_advances {precf : Units} {is : List Nat} {lines : Lines} {v : Lines × Nat}
    (h : s.fineUnits precf is lines p = .ok v) : Advances s p v.2 := by
  induction is generalizing lines p with
  | nil => cases h; exact .refl s p
  | cons i is ih =>
    simp only [State.fineUnits] at h
    split at h
    · split at h
      · cases h
      · obtain ⟨unit, hunit, h⟩ := bind_ok.mp h
        exact (readManySigned_advances hunit).trans (ih h)
    · exact ih h

/-! ### The cursor of a frame (R253 to R258) -/

/-- The rule that leads from `s` to `t` leaves the readable limit alone and moves a cursor below it forward, to a position
still below it. -/
structure Onward (s t : State) : Prop where
  limit : t.limitBits = s.limitBits
  cursor : cursor s ≤ s.limitBits → cursor s ≤ cursor t ∧ cursor t ≤ s.limitBits

theorem Onward.trans (h : Onward s t) (k : Onward t u) : Onward s u where
  limit := k.limit.trans h.limit
  cursor hs := by
    obtain ⟨hst, ht⟩ := h.cursor hs
    obtain ⟨htu, hu⟩ := k.cursor (h.limit ▸ ht)
    exact ⟨hst.trans htu, h.limit ▸ hu⟩

theorem limitBits_of_kept (h : Kept s t) : t.limitBits = s.limitBits := by
  rw [State.limitBits, State.limitBits, State.rom, State.rom, h.cfg, h.inLen]

/-- The input fits a register's bits many times over, so no readable position wraps (R60, R110). -/
theorem limitBits_le (s : State) : s.limitBits ≤ 2 ^ 19 := by
  have hle : s.limitBits ≤ 8 * s.cfg.rom.inBufBytes := Nat.mul_le_mul_left 8 (Nat.min_le_right _ _)
  have hin := (header_bounds s.cfg).1
  omega

/-- A rule that does not move the cursor. -/
theorem onward_of_brPos_eq (hk : Kept s t) (h : t.brPos = s.brPos) : Onward s t where
  limit := limitBits_of_kept hk
  cursor hs := by
    rw [show cursor t = cursor s from congrArg BitVec.toNat h]
    exact ⟨le_rfl, hs⟩

/-- A rule that sets the cursor where its reads have led. -/
theorem onward_of_advances (hk : Kept s t) (ht : t.brPos = Word.ofNat q) (h : Advances s (cursor s) q) : Onward s t where
  limit := limitBits_of_kept hk
  cursor hs := by
    have hq := h.2 hs
    rw [show cursor t = q by rw [cursor, ht, Word.ofNat, BitVec.toNat_ofNat,
      Nat.mod_eq_of_lt (by have := limitBits_le s; omega)]]
    exact ⟨h.1, hq⟩

theorem onward_setChan (s : State) (c : Chan) (x : Channel) : Onward s (s.setChan c x) :=
  onward_of_brPos_eq (kept_setChan s c x) (setChan_brPos s c x)

theorem onward_setChan_setBrPos {x : Channel} (h : Advances s (cursor s) q) : Onward s ((s.setChan c x).setBrPos q) :=
  onward_of_advances ((kept_setChan s c x).trans (kept_setBrPos _ q)) rfl h

theorem onward_parseHeaderRule (h : parseHeaderRule s = .ok t) : cursor s ≤ s.limitBits ∧ Onward s t := by
  have hk := (keeps_parseHeaderRule h).kept
  rw [parseHeaderRule, bind_ok] at h
  obtain ⟨sync, hsync, h⟩ := h
  split at h
  · cases h
  · simp only [bind_ok] at h
    obtain ⟨srid, hsrid, ccid, hccid, flen, hflen, fstat, hfstat, h⟩ := h
    have hreadable : cursor s + 8 ≤ s.limitBits := (read_inv hsync).1.2.resolve_left (by decide)
    have hadvances := ((((read_advances hsync).trans (read_advances hsrid)).trans (read_advances hccid)).trans
      (read_advances hflen)).trans (read_advances hfstat)
    refine ⟨by omega, ?_⟩
    split at h
    · cases h
    · split at h
      · cases h
      · cases h
        exact onward_of_advances hk rfl hadvances

theorem onward_parseBandRule (h : parseBandRule s = .ok t) : Onward s t := by
  simp only [parseBandRule, bind_ok] at h
  obtain ⟨coded, hcoded, flag, hflag, h⟩ := h
  split at h
  · cases h
  · cases h
    exact onward_of_advances (kept_fields rfl).kept rfl
      ((read_advances hcoded).trans (read_advances hflag))

theorem onward_parseGradientRule (h : parseGradientRule s = .ok t) : Onward s t := by
  simp only [parseGradientRule, bind_ok] at h
  obtain ⟨gmode, hgmode, f, hf, gbnd, hgbnd, h⟩ := h
  cases h
  exact onward_of_advances (kept_fields rfl).kept rfl
    (((read_advances hgmode).trans (gradientFields_advances hf)).trans (read_advances hgbnd))

theorem onward_gradientBuildRule (h : gradientBuildRule s = .ok t) : Onward s t := by
  have hk := (keeps_gradientBuildRule h).kept
  obtain ⟨g, rfl⟩ := gradientBuildRule_shape h
  exact onward_of_brPos_eq hk rfl

theorem onward_sfDecodeRule {l : LocalCh} (h : sfDecodeRule c l s = .ok t) : Onward s t := by
  simp only [sfDecodeRule, bind_ok] at h
  obtain ⟨-, -, mode, hmode, v, hv, h⟩ := h
  cases h
  exact onward_setChan_setBrPos ((read_advances hmode).trans (sfScheme_advances hv))

theorem onward_specDecodeRule (h : specDecodeRule c s = .ok t) : Onward s t := by
  simp only [specDecodeRule, bind_ok] at h
  obtain ⟨-, -, v, hv, h⟩ := h
  cases h
  exact onward_setChan_setBrPos (specUnits_advances hv)

theorem onward_specFineDecodeRule (h : specFineDecodeRule c s = .ok t) : Onward s t := by
  simp only [specFineDecodeRule, bind_ok] at h
  obtain ⟨-, -, v, hv, h⟩ := h
  cases h
  exact onward_setChan_setBrPos (fineUnits_advances hv)

theorem onward_channelBody {l : LocalCh} (h : channelBody c l s = .ok t) : Onward s t := by
  simp only [channelBody, bind_ok] at h
  obtain ⟨s1, h1, s2, h2, s3, h3, s4, h4, s5, h5, s6, h6, s7, h7, h8⟩ := h
  have k2 : Onward s1 s2 := by
    obtain ⟨-, rfl⟩ := pmaskBuildRule_shape h2
    exact onward_setChan _ _ _
  have k3 : Onward s2 s3 := by
    obtain ⟨_, _, rfl⟩ := precisionCalcRule_shape h3
    exact onward_setChan _ _ _
  have k6 : Onward s5 s6 := by
    obtain ⟨_, rfl⟩ := dequantRule_shape h6
    exact onward_setChan _ _ _
  have k7 : Onward s6 s7 := by
    obtain ⟨_, rfl⟩ := scaleRule_shape h7
    exact onward_setChan _ _ _
  have k8 : Onward s7 t := by
    obtain ⟨_, _, rfl⟩ := imdctWorkRule_shape h8
    exact onward_setChan _ _ _
  have k13 := ((onward_sfDecodeRule h1).trans k2).trans k3
  have k15 := (k13.trans (onward_specDecodeRule h4)).trans (onward_specFineDecodeRule h5)
  exact ((k15.trans k6).trans k7).trans k8

theorem onward_refl (s : State) : Onward s s := onward_of_brPos_eq (Kept.refl s) rfl

theorem onward_channelLoop {chb b k l : Nat} (h : channelLoop chb b k l s = .ok t) : Onward s t := by
  induction k generalizing l s with
  | zero => cases h; exact onward_refl _
  | succ k ih =>
    rw [channelLoop, bind_ok] at h
    obtain ⟨u, hu, h⟩ := h
    exact (onward_channelBody hu).trans (ih h)

/-- The limit is a whole number of bytes, so the alignment of a sub-block stays below it (R110, R257). -/
theorem alignUp_advances (s : State) (p : Nat) : Advances s p (alignUp 8 p) := by
  refine ⟨?_, fun hp => ?_⟩
  · rw [alignUp]
    omega
  · rw [alignUp, State.limitBits] at *
    omega

theorem onward_subBlock {chb b : Nat} (h : subBlock chb b s = .ok t) : Onward s t := by
  simp only [subBlock, bind_ok] at h
  obtain ⟨s1, h1, s2, h2, s3, h3, s4, h4, p, hp, h⟩ := h
  rw [alignPos_ok (by decide)] at hp
  cases hp
  cases h
  have k3 := ((onward_parseBandRule h1).trans (onward_parseGradientRule h2)).trans (onward_gradientBuildRule h3)
  exact (k3.trans (onward_channelLoop h4)).trans
    (onward_of_advances (kept_setBrPos s4 _) rfl (alignUp_advances s4 (cursor s4)))

theorem onward_subBlockLoop {chb b k : Nat} (h : subBlockLoop chb k b s = .ok t) : Onward s t := by
  induction k generalizing b s with
  | zero => cases h; exact onward_refl _
  | succ k ih =>
    rw [subBlockLoop, bind_ok] at h
    obtain ⟨u, hu, h⟩ := h
    exact (onward_subBlock hu).trans (ih h)

/-! ### The bytes a frame consumes (R258, R260) -/

theorem toNat_ofInt_of_bounds {x : Int} (h0 : 0 ≤ x) (h : x < 2 ^ 32) : ((Word.ofInt x).toNat : Int) = x := by
  rw [Word.ofInt, BitVec.toNat_ofInt]
  omega

/-- The cursor reaches the frame's end only when the declared length is not negative. -/
theorem frameBytes_nonneg (hs : cursor s ≤ s.limitBits) (ho : Onward s t)
    (hend : (cursor t : Int) ≤ cursor s + 8 * t.frameBytes) : 0 ≤ t.frameBytes := by
  have := (ho.cursor hs).1
  omega

theorem frameBytes_lt (s : State) : s.frameBytes < 2 ^ 28 + 2 ^ 16 := by
  have hadj : s.rom.flenAdj < 2 ^ 28 := (header_bounds s.cfg).2.2
  have hflen := s.flen.isLt
  rw [State.frameBytes]
  omega

/-- What a frame without an error leaves in `BYTES_CONSUMED` and `BR_POS` (R258): neither register truncates it. -/
theorem decodeFrameRule_end (h : decodeFrameRule s = .ok t) :
    (t.bytesConsumed.toNat : Int) = t.frameBytes ∧
    (t.brPos.toNat : Int) = s.brPos.toNat + 8 * t.frameBytes := by
  obtain ⟨s1, s2, s3, s4, h1, h2, h3, h4, rfl⟩ := decodeFrameRule_stages h
  obtain ⟨hstart, k1⟩ := onward_parseHeaderRule h1
  have ksnap : Onward s1 (snapshot s1) :=
    onward_of_brPos_eq (kept_fields rfl).kept rfl
  have hbody := (k1.trans ksnap).trans (onward_subBlockLoop h2)
  obtain ⟨hend, rfl⟩ := frameEnd_shape h3
  obtain ⟨-, -, -, rfl⟩ := pcmOutRule_shape h4
  have hnonneg := frameBytes_nonneg (t := s2) hstart hbody hend
  have hlt := frameBytes_lt s2
  have hlow : s.brPos.toNat ≤ 2 ^ 19 := hstart.trans (limitBits_le s)
  have hbytes : ((Word.ofInt s2.frameBytes).toNat : Int) = s2.frameBytes :=
    toNat_ofInt_of_bounds hnonneg (by omega)
  have hpos : ((Word.ofInt (s.brPos.toNat + 8 * s2.frameBytes)).toNat : Int) = s.brPos.toNat + 8 * s2.frameBytes :=
    toNat_ofInt_of_bounds (by omega) (by omega)
  exact ⟨hbytes, hpos⟩

/-- Settles O50: a frame's reads only go forward, so one that ends inside its declared length has a length that is not
negative, and no register truncates it. -/
theorem aFrameConsumesItsDeclaredLength : Obligations.AFrameConsumesItsDeclaredLength := by
  intro s t h herr
  obtain ⟨u, -, hu, rfl⟩ | ⟨e, -, -, rfl⟩ | ⟨-, rfl⟩ := runCommand_cases h
  · obtain ⟨hbytes, hpos⟩ := decodeFrameRule_end hu
    have hcfg := (keeps_decodeFrameRule hu).kept.cfg
    rw [complete_bytesConsumed, complete_brPos, complete_flen]
    refine ⟨?_, by omega⟩
    rw [hbytes, State.frameBytes, State.rom, hcfg]
  · cases herr
  · cases herr

end Sys2Proof.Proofs.Frame
end

section
/-! The fatal latch (R23, R275): what a host action can still do once `FATAL` is set. -/

namespace Sys2Proof.Proofs.FatalLatch

open Sys2Proof.Machine Sys2Proof.Claims

variable {s t : State} {w : Word}

/-! ### A write to `STATUS` -/

@[simp] theorem status_hostWrite_fatal (t : Status) (w : Word) : (t.hostWrite w).fatal = t.fatal := rfl

@[simp] theorem status_hostWrite_errCode (t : Status) (w : Word) : (t.hostWrite w).errCode = t.errCode := rfl

/-- `ERR` is write-1-to-clear only while `FATAL = 0` (R275). -/
theorem status_hostWrite_err_of_fatal {t : Status} (hf : t.fatal = true) : (t.hostWrite w).err = t.err := by
  simp [Status.hostWrite, hf]

/-! ### A write to any other register -/

theorem writeReg_status_of_ne {r : HostReg} (hr : r ≠ .status) : (s.writeReg w r).status = s.status := by
  cases r with
  | status => exact absurd rfl hr
  | _ => simp [State.writeReg]

@[simp] theorem writeReg_errPos (s : State) (w : Word) (r : HostReg) : (s.writeReg w r).errPos = s.errPos := by
  cases r <;> simp [State.writeReg]

@[simp] theorem writeReg_errCmd (s : State) (w : Word) (r : HostReg) : (s.writeReg w r).errCmd = s.errCmd := by
  cases r <;> simp [State.writeReg]

/-! ### A write to `CMD` -/

theorem not_ready_of_fatal (hf : s.status.fatal = true) : s.ready = false := by simp [State.ready, hf]

theorem submit_of_fatal_idle (hf : s.status.fatal = true) (hb : s.status.busy = false) : submit w s = .next s := by
  simp [submit, not_ready_of_fatal hf, hb]

theorem submit_next_of_fatal (hf : s.status.fatal = true) (h : submit w s = .next t) : t = s := by
  have hready := not_ready_of_fatal hf
  obtain ⟨_, hr, -, -⟩ | ⟨hr, -, -⟩ | ⟨-, -, ht⟩ := submit_next h
  · simp [hready] at hr
  · simp [hready] at hr
  · exact ht

theorem act_writeCmd (s : State) (w : Word) : act s (.write .w32 cmdOffset w) = submit w s := rfl

/-! ### Any action -/

/-- The error a fatal state records, as R275 holds it: `FATAL`, `ERR`, `ERR_CODE`, `ERR_POS` and `ERR_CMD`. -/
structure ErrorHeld (s t : State) : Prop where
  fatal : t.status.fatal = s.status.fatal
  err : t.status.err = s.status.err
  errCode : t.status.errCode = s.status.errCode
  errPos : t.errPos = s.errPos
  errCmd : t.errCmd = s.errCmd

theorem ErrorHeld.refl (s : State) : ErrorHeld s s := ⟨rfl, rfl, rfl, rfl, rfl⟩

theorem errorHeld_of_status_eq (hs : t.status = s.status) (hp : t.errPos = s.errPos) (hc : t.errCmd = s.errCmd) :
    ErrorHeld s t := ⟨hs ▸ rfl, hs ▸ rfl, hs ▸ rfl, hp, hc⟩

theorem errorHeld_writeReg (hf : s.status.fatal = true) (w : Word) (r : HostReg) : ErrorHeld s (s.writeReg w r) := by
  by_cases hr : r = .status
  · subst hr
    exact ⟨status_hostWrite_fatal _ w, status_hostWrite_err_of_fatal hf, status_hostWrite_errCode _ w, rfl, rfl⟩
  · exact errorHeld_of_status_eq (writeReg_status_of_ne hr) (writeReg_errPos s w r) (writeReg_errCmd s w r)

theorem errorHeld_writeSpace (hf : s.status.fatal = true) (width : AccessWidth) (w : Word) (sp : HostSpace) :
    ErrorHeld s (s.writeSpace width w sp) := by
  cases sp with
  | reg r => exact errorHeld_writeReg hf w r
  | reservedWord => exact .refl s
  | ram m a => cases m <;> exact ⟨rfl, rfl, rfl, rfl, rfl⟩
  | reserved => exact .refl s

/-- Only reset lets go of the error: no command is ready to run, and no store reaches it. -/
theorem errorHeld_act {a : HostAction} (hf : s.status.fatal = true) (ha : a ≠ .reset) (h : act s a = .next t) :
    ErrorHeld s t := by
  have hready := not_ready_of_fatal hf
  obtain ⟨_, _, -, hr, -⟩ | ⟨_, -, hr, -⟩ | ⟨-, rfl⟩ | ⟨width, o, w, -, -, -, rfl⟩ | ⟨d, k, rfl⟩ | ⟨hreset, -⟩ :=
    act_next h
  · simp [hready] at hr
  · simp [hready] at hr
  · exact .refl _
  · exact errorHeld_writeSpace hf width w _
  · exact ⟨rfl, rfl, rfl, rfl, rfl⟩
  · exact absurd hreset ha

theorem resetInput_fatal (s : State) : (resetInput s).status.fatal = false := rfl

/-- The next action is what a step performs (R71). -/
theorem step_of_hostQueue {a : HostAction} {rest : List HostAction} (hq : s.hostQueue = a :: rest) :
    step s = act { s with hostQueue := rest } a := by
  simp [step, hq]

/-- Settles O7: a fatal state is not ready for a command, every other access keeps the error, and reset clears it. -/
theorem fatalIsLatchedUntilReset : Obligations.FatalIsLatchedUntilReset := by
  intro s a rest hf hq
  rw [step_of_hostQueue hq]
  refine ⟨?idle, fun t h => ⟨?reset, ?held, ?ignored⟩⟩
  case idle =>
    rintro w rfl hb
    exact (act_writeCmd _ w).trans (submit_of_fatal_idle hf hb)
  case reset =>
    rintro rfl
    cases h
    exact resetInput_fatal _
  case held =>
    intro ha
    obtain ⟨hfatal, herr, hcode, hpos, hcmd⟩ := errorHeld_act (s := { s with hostQueue := rest }) hf ha h
    exact ⟨hfatal.trans hf, herr, hcode, hpos, hcmd⟩
  case ignored =>
    rintro w rfl
    exact submit_next_of_fatal hf ((act_writeCmd _ w).symm.trans h)

end Sys2Proof.Proofs.FatalLatch
end

section
/-! The command words (R80 to R83): the encoder's words are the only ones the decoder accepts. -/

namespace Sys2Proof.Proofs.Encoding

open Sys2Proof.Proofs.PcmOut Sys2Proof.Laws

variable {w m : Word} {i : Instr}

/-! ### A word is its row's fixed bits and its fields (R80, R82) -/

theorem matchesRow_iff {mask : Word} : matchesRow w mask m = true ↔ w &&& mask = m := by
  rw [matchesRow, beq_iff_eq]

/-- A row without fields fixes every bit. -/
theorem word_of_fullRow (h : matchesRow w 0xFFFFFFFF m = true) : m = w := by
  rw [← matchesRow_iff.mp h]
  exact BitVec.and_allOnes

/-- The bits under a mask and those the mask leaves free make up the word. -/
theorem word_of_masked {mask free : Word} (h : matchesRow w mask m = true) (hmask : mask = ~~~free) :
    m ||| (w &&& free) = w := by
  rw [← matchesRow_iff.mp h, hmask, ← BitVec.and_or_distrib_left, BitVec.or_comm, BitVec.or_not_self,
    BitVec.and_allOnes]

theorem nBits_nField (w : Word) : nBits (nField w) = w &&& 0xFC00 := by
  have hlt : nField w < 64 := (w.extractLsb' 10 6).isLt
  rw [nBits, Nat.mod_eq_of_lt hlt, nField, BitVec.ofNat_toNat]
  ext k hk
  interval_cases k <;> simp

theorem tBits_tField (w : Word) : tBits (tField w) = w &&& 0xF0000 := by
  have hlt : tField w < 16 := (w.extractLsb' 16 4).isLt
  rw [tBits, Nat.mod_eq_of_lt hlt, tField, BitVec.ofNat_toNat]
  ext k hk
  interval_cases k <;> simp

theorem chBits_chField (w : Word) : chBits (chField w) = w &&& 0x100 := by
  rw [chField]
  ext k hk
  cases hw : w.getLsbD 8 <;> interval_cases k <;> simp_all [chBits]

theorem lchBits_lchField (w : Word) : lchBits (lchField w) = w &&& 0x200 := by
  rw [lchField]
  ext k hk
  cases hw : w.getLsbD 9 <;> interval_cases k <;> simp_all [lchBits]

theorem word_of_nRow (h : matchesRow w 0xFFFF03FF m = true) : m ||| nBits (nField w) = w := by
  rw [nBits_nField]
  exact word_of_masked h (by decide)

theorem word_of_tRow (h : matchesRow w 0xFFF0FFFF m = true) : m ||| tBits (tField w) = w := by
  rw [tBits_tField]
  exact word_of_masked h (by decide)

theorem word_of_chRow (h : matchesRow w 0xFFFFFEFF m = true) : m ||| chBits (chField w) = w := by
  rw [chBits_chField]
  exact word_of_masked h (by decide)

theorem word_of_sfRow (h : matchesRow w 0xFFFFFCFF m = true) :
    m ||| chBits (chField w) ||| lchBits (lchField w) = w := by
  rw [chBits_chField, lchBits_lchField, BitVec.or_assoc, ← BitVec.and_or_distrib_left]
  exact word_of_masked h (by decide)

/-! ### What the row of a word decodes to -/

/-- The operands are the word's fields. -/
def operandsFrom (w : Word) : Instr → Prop
  | .brPeek n | .brRead n | .brReadSigned n | .brReadOb n => n = nField w
  | .huffDecode t => t = tField w
  | .sfDecode c l => c = chField w ∧ l = lchField w
  | _ => True

/-- One row of the opcode map, tried before the rest. -/
theorem row_or_rest {p : Prop} [Decidable p] {j : Instr} {rest : Option Instr}
    (h : (if p then some j else rest) = some i) : p ∧ j = i ∨ rest = some i := by
  by_cases hp : p
  · rw [if_pos hp] at h
    exact .inl ⟨hp, Option.some.inj h⟩
  · rw [if_neg hp] at h
    exact .inr h

theorem row_and_rest_eq_none {p : Prop} [Decidable p] {j : Instr} {rest : Option Instr} :
    (if p then some j else rest) = none ↔ ¬p ∧ rest = none := by
  by_cases hp : p <;> simp [hp]

/-- A word in a row is the encoding of the row's command with the word's fields. -/
theorem decodeRow_some (h : decodeRow w = some i) : encode i = w ∧ operandsFrom w i := by
  unfold decodeRow at h
  obtain ⟨hrow, rfl⟩ | h := row_or_rest h
  · exact ⟨word_of_fullRow hrow, trivial⟩
  obtain ⟨hrow, rfl⟩ | h := row_or_rest h
  · exact ⟨word_of_fullRow hrow, trivial⟩
  obtain ⟨hrow, rfl⟩ | h := row_or_rest h
  · exact ⟨word_of_fullRow hrow, trivial⟩
  obtain ⟨hrow, rfl⟩ | h := row_or_rest h
  · exact ⟨word_of_nRow hrow, rfl⟩
  obtain ⟨hrow, rfl⟩ | h := row_or_rest h
  · exact ⟨word_of_nRow hrow, rfl⟩
  obtain ⟨hrow, rfl⟩ | h := row_or_rest h
  · exact ⟨word_of_nRow hrow, rfl⟩
  obtain ⟨hrow, rfl⟩ | h := row_or_rest h
  · exact ⟨word_of_nRow hrow, rfl⟩
  obtain ⟨hrow, rfl⟩ | h := row_or_rest h
  · exact ⟨word_of_fullRow hrow, trivial⟩
  obtain ⟨hrow, rfl⟩ | h := row_or_rest h
  · exact ⟨word_of_tRow hrow, rfl⟩
  obtain ⟨hrow, rfl⟩ | h := row_or_rest h
  · exact ⟨word_of_fullRow hrow, trivial⟩
  obtain ⟨hrow, rfl⟩ | h := row_or_rest h
  · exact ⟨word_of_fullRow hrow, trivial⟩
  obtain ⟨hrow, rfl⟩ | h := row_or_rest h
  · exact ⟨word_of_fullRow hrow, trivial⟩
  obtain ⟨hrow, rfl⟩ | h := row_or_rest h
  · exact ⟨word_of_fullRow hrow, trivial⟩
  obtain ⟨hrow, rfl⟩ | h := row_or_rest h
  · exact ⟨word_of_chRow hrow, trivial⟩
  obtain ⟨hrow, rfl⟩ | h := row_or_rest h
  · exact ⟨word_of_chRow hrow, trivial⟩
  obtain ⟨hrow, rfl⟩ | h := row_or_rest h
  · exact ⟨word_of_sfRow hrow, rfl, rfl⟩
  obtain ⟨hrow, rfl⟩ | h := row_or_rest h
  · exact ⟨word_of_chRow hrow, trivial⟩
  obtain ⟨hrow, rfl⟩ | h := row_or_rest h
  · exact ⟨word_of_chRow hrow, trivial⟩
  obtain ⟨hrow, rfl⟩ | h := row_or_rest h
  · exact ⟨word_of_chRow hrow, trivial⟩
  obtain ⟨hrow, rfl⟩ | h := row_or_rest h
  · exact ⟨word_of_chRow hrow, trivial⟩
  obtain ⟨hrow, rfl⟩ | h := row_or_rest h
  · exact ⟨word_of_chRow hrow, trivial⟩
  obtain ⟨hrow, rfl⟩ | h := row_or_rest h
  · exact ⟨word_of_fullRow hrow, trivial⟩
  cases h

theorem decodeWord_some (h : decodeWord w = some i) : decodeRow w = some i ∧ i.wellFormed = true :=
  Option.filter_eq_some_iff.mp h

/-! ### Decoding an encoding -/

/-- Every operand a legal command admits, checked against the opcode map. -/
theorem decodeWord_encode (h : i.wellFormed = true) : decodeWord (encode i) = some i := by
  have widths : ∀ n < 64, decodeWord (encode (.brPeek n)) = some (.brPeek n) ∧
      decodeWord (encode (.brRead n)) = some (.brRead n) ∧
      decodeWord (encode (.brReadSigned n)) = some (.brReadSigned n) ∧
      decodeWord (encode (.brReadOb n)) = some (.brReadOb n) := by decide
  have tables : ∀ t ≤ 12, decodeWord (encode (.huffDecode t)) = some (.huffDecode t) := by decide
  cases i with
  | brPeek n => exact (widths n (of_decide_eq_true h)).1
  | brRead n => exact (widths n (of_decide_eq_true h)).2.1
  | brReadSigned n => exact (widths n (of_decide_eq_true h)).2.2.1
  | brReadOb n => exact (widths n (of_decide_eq_true h)).2.2.2
  | huffDecode t => exact tables t (of_decide_eq_true h)
  | pmaskBuild c | precisionCalc c | specDecode c | specFineDecode c | dequant c | scale c | imdct c =>
    cases c <;> decide
  | sfDecode c l =>
    revert h
    cases c <;> cases l <;> decide
  | _ => decide

/-- The bytes of a word are read as that word (R64). -/
theorem decodeBytes_wordBytes (w : Word) (rest : List Byte) :
    decodeBytes (wordBytes w ++ rest) = (decodeWord w).map (·, rest) := by
  rw [wordBytes, List.cons_append, List.cons_append, List.cons_append, List.cons_append, List.nil_append, decodeBytes,
    four_bytes]

/-- Settles O1: a word is the fixed bits of its row and its fields, so it is the encoding of what it decodes to. -/
theorem decodingAndEncodingAreInverse : Obligations.DecodingAndEncodingAreInverse := by
  refine ⟨fun i rest hi => ⟨decodeWord_encode hi, ?_⟩, fun w i h => ?_⟩
  · rw [decodeBytes_wordBytes, decodeWord_encode hi, Option.map_some]
  · obtain ⟨hrow, hwf⟩ := decodeWord_some h
    exact ⟨hwf, (decodeRow_some hrow).1⟩

/-! ### The illegal words (R83) -/

theorem decodeRow_eq_none_iff : decodeRow w = none ↔ ∀ r ∈ opcodeMap, w &&& r.mask ≠ r.matchBits := by
  simp only [decodeRow, row_and_rest_eq_none, matchesRow_iff, opcodeMap, List.forall_mem_append, List.forall_mem_cons,
    List.not_mem_nil, false_imp_iff, implies_true, and_true, ne_eq, and_assoc]

theorem tField_eq (w : Word) : tField w = w.toNat / 2 ^ 16 % 16 := by
  rw [tField, BitVec.extractLsb'_toNat, Nat.shiftRight_eq_div_pow]

/-- The legal rows' words with operands that R83 excludes. -/
theorem illegal_operands (hrow : decodeRow w = some i) (hwf : i.wellFormed = false) :
    (w &&& 0xFFF0FFFF = 0x20 ∧ 13 ≤ tField w) ∨
    (w &&& 0xFFFFFCFF = 0x40 ∧ w.getLsbD 9 = true ∧ w.getLsbD 8 = false) := by
  obtain ⟨hw, hops⟩ := decodeRow_some hrow
  have hn : nField w < 64 := (w.extractLsb' 10 6).isLt
  cases i with
  | brPeek n | brRead n | brReadSigned n | brReadOb n =>
    obtain rfl : n = nField w := hops
    exact absurd hn (of_decide_eq_false hwf)
  | huffDecode t =>
    obtain rfl : t = tField w := hops
    have ht : 12 < tField w := not_le.mp (of_decide_eq_false hwf)
    refine .inl ⟨?_, ht⟩
    rw [← hw, encode, BitVec.and_or_distrib_right, TableRow.tBits_masked]
    decide
  | sfDecode c l =>
    obtain ⟨hch, hlch⟩ : c = chField w ∧ l = lchField w := hops
    obtain ⟨rfl, rfl⟩ : c = .c0 ∧ l = .l1 := by
      revert hwf
      cases c <;> cases l <;> decide
    obtain rfl : w = 0x240 := hw.symm
    exact .inr (by decide)
  | _ => cases hwf

/-- A word in the row of `HUFF_DECODE` with a table id above 12 is illegal. -/
theorem decodeWord_huffRow (h : w &&& 0xFFF0FFFF = 0x20) (ht : 13 ≤ tField w) : decodeWord w = none := by
  have hlt : tField w < 16 := (w.extractLsb' 16 4).isLt
  rw [← word_of_tRow (matchesRow_iff.mpr h)]
  generalize tField w = t at ht hlt
  interval_cases t <;> decide

/-- A word in the row of `SF_DECODE` with `LCH` 1 and `CH` 0 is illegal. -/
theorem decodeWord_sfRow (h : w &&& 0xFFFFFCFF = 0x40) (h9 : w.getLsbD 9 = true) (h8 : w.getLsbD 8 = false) :
    decodeWord w = none := by
  rw [← word_of_sfRow (matchesRow_iff.mpr h), chField, lchField, h8, h9]
  decide

/-- Settles O2: a word that is in a row and does not decode has operands that no legal command has. -/
theorem theIllegalWordsAreThoseOfR83 : Obligations.TheIllegalWordsAreThoseOfR83 := by
  intro w
  rw [← decodeRow_eq_none_iff, ← tField_eq]
  refine ⟨fun h => ?_, ?_⟩
  · cases hrow : decodeRow w with
    | none => exact .inl rfl
    | some i =>
      refine .inr (illegal_operands hrow (Bool.eq_false_iff.mpr fun hwf => ?_))
      rw [decodeWord, hrow, Option.filter_some, if_pos hwf] at h
      cases h
  · rintro (h | ⟨h, ht⟩ | ⟨h, h9, h8⟩)
    · rw [decodeWord, h, Option.filter_none]
    · exact decodeWord_huffRow h ht
    · exact decodeWord_sfRow h h9 h8

/-- Settles O3, word by word. -/
theorem wordsOfTheOpcodeMapDecodeAsListed : Obligations.WordsOfTheOpcodeMapDecodeAsListed := by
  unfold Obligations.WordsOfTheOpcodeMapDecodeAsListed
  decide

end Sys2Proof.Proofs.Encoding
end

section
/-! The invariant of the block between two steps. -/

namespace Sys2Proof.Proofs.Invariant

open Sys2Proof.Machine Sys2Proof.Claims Sys2Proof.Proofs.Common

variable {s t : State} {w : Word}

/-- Every clause speaks of cells that reset clears. -/
theorem inv_resetWith (cfg : ValidConfig) (k : Nat) : (State.resetWith cfg k).Inv where
  idle := rfl
  fatalErr h := h
  codeRange := Nat.zero_le _
  errCoded h := absurd h Bool.false_ne_true
  fatalCoded h := absurd h Bool.false_ne_true
  inLenBound := Nat.zero_le _
  luts := rfl
  inWf := rfl
  outWf := rfl
  inBound _ h := absurd h List.not_mem_nil
  outBound _ h := absurd h List.not_mem_nil

/-- Settles O59: the state right after reset is a reset of the block as it was built. -/
theorem invHoldsAtReset : Obligations.InvHoldsAtReset := inv_resetWith _ _

/-- The clauses of the invariant that speak of the flags. -/
structure FlagsInv (f : Status) : Prop where
  idle : f.busy = false
  fatalErr : f.fatal = true → f.err = true
  codeRange : f.errCode.toNat ≤ 12
  errCoded : f.err = true → f.errCode ≠ 0
  fatalCoded : f.fatal = true → f.errCode ≠ 1

theorem flagsInv (h : s.Inv) : FlagsInv s.status := ⟨h.idle, h.fatalErr, h.codeRange, h.errCoded, h.fatalCoded⟩

/-- The invariant speaks of the flags, `IN_LEN`, the lookup tables and the RAMs only. -/
theorem inv_of_flags (h : s.Inv) (hf : FlagsInv t.status) (hinit : t.status.initDone = s.status.initDone)
    (hcfg : t.cfg = s.cfg) (hlen : t.inLen = s.inLen) (hlut : t.hlut = s.hlut) (hin : t.inBuf = s.inBuf)
    (hout : t.outBuf = s.outBuf) : t.Inv := by
  have hrom : t.rom = s.rom := congrArg ValidConfig.rom hcfg
  constructor
  case idle => exact hf.idle
  case fatalErr => exact hf.fatalErr
  case codeRange => exact hf.codeRange
  case errCoded => exact hf.errCoded
  case fatalCoded => exact hf.fatalCoded
  case inLenBound => rw [hlen, hrom]; exact h.inLenBound
  case luts => rw [hlut, hinit, hrom]; exact h.luts
  case inWf => rw [hin]; exact h.inWf
  case outWf => rw [hout]; exact h.outWf
  case inBound => rw [hin, hrom]; exact h.inBound
  case outBound => rw [hout, hrom]; exact h.outBound

/-- A change of any other cell keeps it. -/
theorem inv_congr (h : s.Inv) (hs : t.status = s.status) (hcfg : t.cfg = s.cfg) (hlen : t.inLen = s.inLen)
    (hlut : t.hlut = s.hlut) (hin : t.inBuf = s.inBuf) (hout : t.outBuf = s.outBuf) : t.Inv :=
  inv_of_flags h (hs ▸ flagsInv h) (hs ▸ rfl) hcfg hlen hlut hin hout

theorem inv_resetInput (s : State) : (resetInput s).Inv :=
  inv_congr (inv_resetWith s.cfg s.freeCtr) rfl rfl rfl rfl rfl rfl

/-! ### Commands -/

theorem ready_iff : s.ready = true ↔ s.status.busy = false ∧ s.status.fatal = false := by
  simp [State.ready]

theorem flagsInv_completed {f : Status} (hf : f.fatal = false) (hinit : Bool) :
    FlagsInv { f.accept.complete with initDone := hinit } where
  idle := rfl
  fatalErr h := absurd (hf.symm.trans h) Bool.false_ne_true
  codeRange := Nat.zero_le _
  errCoded h := absurd h Bool.false_ne_true
  fatalCoded h := absurd (hf.symm.trans h) Bool.false_ne_true

/-- An error is fatal exactly when its code is not `SYNC`'s (R270). -/
theorem flagsInv_raised {f : Status} (hf : f.fatal = false) (e : ErrCode) : FlagsInv (f.accept.raise e) where
  idle := rfl
  fatalErr _ := rfl
  codeRange := (code_range e).2
  errCoded _ := by
    rw [status_raise_errCode]
    cases e <;> decide
  fatalCoded h := by
    rw [status_raise_fatal, status_accept_fatal, hf, Bool.false_or] at h
    exact (fatal_iff_code e).mp h

theorem flagsInv_ends (hf : s.status.fatal = false) (h : Ends (s.accept w) t) : FlagsInv t.status := by
  obtain ⟨hst, -, -⟩ | ⟨hst, -, -, -⟩ | ⟨e, hst, -⟩ := h.status
  · rw [hst]
    exact flagsInv_completed hf s.status.initDone
  · rw [hst]
    exact flagsInv_completed hf true
  · rw [hst]
    exact flagsInv_raised hf e

/-- `INIT` builds the tables that R53 asks for, and no other command touches them. -/
theorem luts_ends (hl : s.hlut = if s.status.initDone then buildLuts s.rom else Vector.replicate 13 [])
    (h : Ends s t) : t.hlut = if t.status.initDone then buildLuts t.rom else Vector.replicate 13 [] := by
  rw [show t.rom = s.rom from congrArg ValidConfig.rom h.cfg]
  obtain hlut | ⟨hlut, hst⟩ := h.hlut
  · obtain ⟨hst, -, -⟩ | ⟨hst, hbuilt, -, -⟩ | ⟨e, hst, -⟩ := h.status
    · rw [hlut, hst]
      exact hl
    · rw [hst]
      exact hbuilt
    · rw [hlut, hst]
      exact hl
  · rw [hst]
    exact hlut

theorem inv_ends (hs : s.Inv) (hready : s.ready = true) (h : Ends (s.accept w) t) : t.Inv := by
  have hf := flagsInv_ends (ready_iff.mp hready).2 h
  have hrom : t.rom = s.rom := congrArg ValidConfig.rom h.cfg
  constructor
  case idle => exact hf.idle
  case fatalErr => exact hf.fatalErr
  case codeRange => exact hf.codeRange
  case errCoded => exact hf.errCoded
  case fatalCoded => exact hf.fatalCoded
  case inLenBound => rw [h.inLen, hrom]; exact hs.inLenBound
  case luts => exact luts_ends (s := s.accept w) hs.luts h
  case inWf => rw [h.inBuf]; exact hs.inWf
  case outWf => exact h.outWf hs.outWf
  case inBound => rw [h.inBuf, hrom]; exact hs.inBound
  case outBound => rw [hrom]; exact h.outBound hs.outBound

/-! ### Host writes -/

/-- Writing 1 clears `DONE`, and `ERR` only while it is not fatal (R25, R275). -/
theorem flagsInv_hostWrite {f : Status} (h : FlagsInv f) (w : Word) : FlagsInv (f.hostWrite w) where
  idle := h.idle
  fatalErr hf := by
    have hf' : f.fatal = true := hf
    simp [Status.hostWrite, hf', h.fatalErr hf']
  codeRange := h.codeRange
  errCoded he := h.errCoded (Bool.and_eq_true _ _ ▸ he).1
  fatalCoded := h.fatalCoded

theorem inv_setInLen (h : s.Inv) (w : Word) : (s.setInLen w).Inv where
  idle := h.idle
  fatalErr := h.fatalErr
  codeRange := h.codeRange
  errCoded := h.errCoded
  fatalCoded := h.fatalCoded
  inLenBound := by
    rw [setInLen_inLen, BitVec.toNat_ofNat]
    exact (Nat.mod_le _ _).trans (Nat.min_le_right _ _)
  luts := h.luts
  inWf := h.inWf
  outWf := h.outWf
  inBound := h.inBound
  outBound := h.outBound

theorem inv_writeReg (h : s.Inv) (w : Word) (r : HostReg) : (s.writeReg w r).Inv := by
  cases r with
  | status => exact inv_of_flags h (flagsInv_hostWrite (flagsInv h) w) rfl rfl rfl rfl rfl rfl
  | inLen => exact inv_setInLen h w
  | _ => refine inv_congr h ?_ ?_ ?_ ?_ ?_ ?_ <;> simp [State.writeReg]

/-- An admitted access to a RAM ends inside it (R66). -/
theorem admitted_ram {c : Config} {width : AccessWidth} {o a : Nat} {m : Ram} (h : admitted c width o = true)
    (hs : spaceAt o = .ram m a) : a + width.bytes ≤ ramSize c m := by
  rw [admitted, hs, Bool.and_eq_true] at h
  exact of_decide_eq_true h.2

theorem inv_writeRam (h : s.Inv) {m : Ram} {a n : Nat} (hfit : a + n ≤ ramSize s.rom m) (w : Word) :
    (s.writeRam m a n w).Inv := by
  have hlen : a + (leBytes n w).length ≤ ramSize s.rom m := by rwa [length_leBytes]
  cases m with
  | input => exact { h with inWf := wf_putBytes _ _ h.inWf, inBound := bound_putBytes h.inBound hlen }
  | output => exact { h with outWf := wf_putBytes _ _ h.outWf, outBound := bound_putBytes h.outBound hlen }

theorem inv_writeSpace (h : s.Inv) {width : AccessWidth} {o : Nat} (hadm : admitted s.rom width o = true) (w : Word) :
    (s.writeSpace width w (spaceAt o)).Inv := by
  cases hs : spaceAt o with
  | reg r => exact inv_writeReg h w r
  | reservedWord => exact h
  | ram m a => exact inv_writeRam h (admitted_ram hadm hs) w
  | reserved => exact h

/-- What any action leaves of a state with the invariant has it. -/
theorem inv_act {a : HostAction} (h : s.Inv) (hact : act s a = .next t) : t.Inv := by
  obtain ⟨w, i, -, hready, -, hx⟩ | ⟨w, -, hready, -, rfl⟩ | ⟨-, rfl⟩ | ⟨width, o, w, -, hadm, -, rfl⟩ | ⟨d, k, rfl⟩ |
    ⟨-, rfl⟩ := act_next hact
  · exact inv_ends h hready (exec_ends hx)
  · exact inv_ends h hready (raiseIllegal_ends _)
  · exact h
  · exact inv_writeSpace h hadm w
  · exact inv_congr h rfl rfl rfl rfl rfl rfl
  · exact inv_resetInput s

/-- Settles O60: each kind of action keeps it. -/
theorem everyStepKeepsInv : Obligations.EveryStepKeepsInv := by
  intro s t h hstep
  obtain ⟨-, rfl⟩ | ⟨a, rest, -, hact⟩ := step_next hstep
  · exact h
  · exact inv_act (s := { s with hostQueue := rest }) (inv_congr h rfl rfl rfl rfl rfl rfl) hact

end Sys2Proof.Proofs.Invariant
end

section
/-! The host's view of the block: the address map (R22 to R51, R60), and what a read and a write do (R21, R66, R67). -/

namespace Sys2Proof.Proofs.HostBus

open Sys2Proof.Machine Sys2Proof.Claims Sys2Proof.Proofs.FatalLatch

variable {s t : State} {c : Chan} {w v : Word} {o i : Nat} {r : HostReg} {rest : List HostAction}

/-! ### The address map (R22 to R51, R60) -/

theorem unitElem_inside {base : Nat} (f : Nat → HostReg) (h : i < 34) :
    unitElem base (base + 4 * i) f = some (f i) := by
  rw [unitElem, if_pos (by omega), Nat.add_sub_cancel_left, Nat.mul_div_cancel_left _ (by decide)]

theorem unitElem_outside {base : Nat} (f : Nat → HostReg) (h : o < base ∨ base + 4 * 34 ≤ o) :
    unitElem base o f = none :=
  if_neg (by omega)

theorem lineElem_inside {base : Nat} (f : Nat → HostReg) (h : i < 256) :
    lineElem base (base + 4 * i) f = some (f i) := by
  rw [lineElem, if_pos (by omega), Nat.add_sub_cancel_left, Nat.mul_div_cancel_left _ (by decide)]

theorem lineElem_outside {base : Nat} (f : Nat → HostReg) (h : o < base ∨ base + 4 * 256 ≤ o) :
    lineElem base o f = none :=
  if_neg (by omega)

/-- An offset of a channel window (R40). -/
theorem spaceAt_window (c : Chan) (h : o < 0x2000) : spaceAt (Claims.windowBase c + o) = wordSpace (chanRegAt c o) := by
  cases c
  · change spaceAt (0x2000 + o) = _
    rw [spaceAt, if_neg (by omega), if_pos (by omega), Nat.add_sub_cancel_left]
  · change spaceAt (0x4000 + o) = _
    rw [spaceAt, if_neg (by omega), if_neg (by omega), if_pos (by omega), Nat.add_sub_cancel_left]

theorem spaceAt_gradient (h : i < 34) : spaceAt (0x100 + 4 * i) = .reg (.gradient i) := by
  rw [spaceAt, if_pos (by omega)]
  simp (disch := omega) only [regAt, if_neg, if_pos, Nat.add_sub_cancel_left, Nat.mul_div_cancel_left]
  rfl

theorem spaceAt_sf (c : Chan) (h : i < 34) : spaceAt (Claims.windowBase c + 0x0000 + 4 * i) = .reg (.sf c i) := by
  rw [Nat.add_assoc, spaceAt_window c (by omega), chanRegAt, unitElem_inside _ h]
  rfl

theorem spaceAt_prec (c : Chan) (h : i < 34) : spaceAt (Claims.windowBase c + 0x0100 + 4 * i) = .reg (.prec c i) := by
  rw [Nat.add_assoc, spaceAt_window c (by omega), chanRegAt]
  simp (disch := omega) only [unitElem_outside, unitElem_inside, Option.none_or, Option.some_or]
  rfl

theorem spaceAt_precf (c : Chan) (h : i < 34) : spaceAt (Claims.windowBase c + 0x0200 + 4 * i) = .reg (.precf c i) := by
  rw [Nat.add_assoc, spaceAt_window c (by omega), chanRegAt]
  simp (disch := omega) only [unitElem_outside, unitElem_inside, Option.none_or, Option.some_or]
  rfl

theorem spaceAt_pmask (c : Chan) (h : i < 34) : spaceAt (Claims.windowBase c + 0x0300 + 4 * i) = .reg (.pmask c i) := by
  rw [Nat.add_assoc, spaceAt_window c (by omega), chanRegAt]
  simp (disch := omega) only [unitElem_outside, unitElem_inside, Option.none_or, Option.some_or]
  rfl

theorem spaceAt_qspec (c : Chan) (h : i < 256) : spaceAt (Claims.windowBase c + 0x0400 + 4 * i) = .reg (.qspec c i) := by
  rw [Nat.add_assoc, spaceAt_window c (by omega), chanRegAt]
  simp (disch := omega) only [unitElem_outside, lineElem_inside, Option.none_or, Option.some_or]
  rfl

theorem spaceAt_qspecf (c : Chan) (h : i < 256) :
    spaceAt (Claims.windowBase c + 0x0800 + 4 * i) = .reg (.qspecf c i) := by
  rw [Nat.add_assoc, spaceAt_window c (by omega), chanRegAt]
  simp (disch := omega) only [unitElem_outside, lineElem_outside, lineElem_inside, Option.none_or, Option.some_or]
  rfl

theorem spaceAt_spec (c : Chan) (h : i < 256) : spaceAt (Claims.windowBase c + 0x0C00 + 4 * i) = .reg (.spec c i) := by
  rw [Nat.add_assoc, spaceAt_window c (by omega), chanRegAt]
  simp (disch := omega) only [unitElem_outside, lineElem_outside, lineElem_inside, Option.none_or, Option.some_or]
  rfl

theorem spaceAt_pcm (c : Chan) (h : i < 256) : spaceAt (Claims.windowBase c + 0x1000 + 4 * i) = .reg (.pcm c i) := by
  rw [Nat.add_assoc, spaceAt_window c (by omega), chanRegAt]
  simp (disch := omega) only [unitElem_outside, lineElem_outside, lineElem_inside, Option.none_or, Option.some_or]
  rfl

theorem spaceAt_prev (c : Chan) (h : i < 256) : spaceAt (Claims.windowBase c + 0x1400 + 4 * i) = .reg (.prev c i) := by
  rw [Nat.add_assoc, spaceAt_window c (by omega), chanRegAt]
  simp (disch := omega) only [unitElem_outside, lineElem_outside, lineElem_inside, Option.none_or, Option.some_or]
  rfl

theorem spaceAt_sfcfg (c : Chan) : spaceAt (Claims.windowBase c + 0x1800) = .reg (.sfcfg c) := by cases c <;> rfl

theorem spaceAt_mbits (c : Chan) : spaceAt (Claims.windowBase c + 0x1804) = .reg (.mbits c) := by cases c <;> rfl

/-- A word of a channel window that is in no list is in no array of it and is neither `SFCFG` nor `MBITS`. -/
theorem chanRegAt_unlisted (h : Claims.unlisted (Claims.windowBase c + o)) : chanRegAt c o = none := by
  obtain ⟨-, h4, -, hw, hp, hc⟩ := h
  obtain ⟨hcfg, hbits⟩ := hc c
  have hbase : Claims.windowBase c % 4 = 0 := by cases c <;> rfl
  have hunit (base : Nat) (f : Nat → HostReg) (hb : base ∈ [0x0000, 0x0100, 0x0200, 0x0300]) (hb4 : base % 4 = 0) :
      unitElem base o f = none := by
    refine if_neg fun hin => hw (.inr (.inl ⟨c, base, (o - base) / 4, hb, by omega, by omega⟩))
  have hline (base : Nat) (f : Nat → HostReg) (hb : base ∈ [0x0400, 0x0800, 0x0C00, 0x1000]) (hb4 : base % 4 = 0) :
      lineElem base o f = none := by
    refine if_neg fun hin => hw (.inr (.inr ⟨c, base, (o - base) / 4, hb, by omega, by omega⟩))
  have hprev : lineElem 0x1400 o (.prev c) = none :=
    if_neg fun hin => hp ⟨c, (o - 0x1400) / 4, by omega, by omega⟩
  rw [chanRegAt, hunit 0x0000 _ (by simp) rfl, hunit 0x0100 _ (by simp) rfl, hunit 0x0200 _ (by simp) rfl,
    hunit 0x0300 _ (by simp) rfl, hline 0x0400 _ (by simp) rfl, hline 0x0800 _ (by simp) rfl,
    hline 0x0C00 _ (by simp) rfl, hline 0x1000 _ (by simp) rfl, hprev, if_neg (by omega), if_neg (by omega)]
  rfl

/-- A word of `REG` that is in no list lies above the registers and outside `GRADIENT`. -/
theorem regAt_unlisted (h : Claims.unlisted o) : regAt o = none := by
  obtain ⟨-, h4, hlow, hw, -, -⟩ := h
  have hgradient : ¬(0x100 ≤ o ∧ o < 0x100 + 4 * 34) := fun hin => hw (.inl ⟨(o - 0x100) / 4, by omega, by omega⟩)
  simp (disch := omega) only [regAt, if_neg]

theorem spaceAt_unlisted (h : Claims.unlisted o) : spaceAt o = .reservedWord ∨ spaceAt o = .reserved := by
  have hram : o < 0x10000 := h.1
  have hwindow (c : Chan) (hlo : Claims.windowBase c ≤ o) : chanRegAt c (o - Claims.windowBase c) = none :=
    chanRegAt_unlisted (by rwa [Nat.add_sub_cancel' hlo])
  unfold spaceAt
  split_ifs with hreg h0 h1 hin hout
  · rw [regAt_unlisted h]
    exact .inl rfl
  · rw [show chanRegAt .c0 (o - 0x2000) = none from hwindow .c0 h0.1]
    exact .inl rfl
  · rw [show chanRegAt .c1 (o - 0x4000) = none from hwindow .c1 h1.1]
    exact .inl rfl
  · omega
  · omega
  · exact .inr rfl

/-! ### One access (R66, R67) -/

theorem toNat_ofNat18 (h : o < 2 ^ 18) : (BitVec.ofNat 18 o).toNat = o := by
  rw [BitVec.toNat_ofNat, Nat.mod_eq_of_lt h]

theorem admitted_reg {c : Config} (h4 : o % 4 = 0) (hs : spaceAt o = .reg r) : admitted c .w32 o = true := by
  rw [admitted, hs, AccessWidth.bytes, h4]
  rfl

theorem admitted_unlisted {c : Config} (h : Claims.unlisted o) : admitted c .w32 o = true := by
  have h4 : o % 4 = 0 := h.2.1
  rcases spaceAt_unlisted h with hs | hs <;> rw [admitted, hs, AccessWidth.bytes, h4] <;> rfl

theorem hostRead_idle {width : AccessWidth} (hb : s.status.busy = false) (ha : admitted s.rom width o = true) :
    hostRead s width o = .next { s with hostData := s.readSpace width (spaceAt o) } := by
  simp [hostRead, ha, hb]

theorem hostWrite_idle {width : AccessWidth} (hb : s.status.busy = false) (ha : admitted s.rom width o = true) :
    hostWrite s width o w = .next (s.writeSpace width w (spaceAt o)) := by
  simp [hostWrite, ha, hb]

theorem ramValue_hostQueue (s : State) (rest : List HostAction) (m : Ram) (a n : Nat) :
    { s with hostQueue := rest }.ramValue m a n = s.ramValue m a n := by
  have hbyte (a : Nat) : { s with hostQueue := rest }.ramByteAt m a = s.ramByteAt m a := by cases m <;> rfl
  induction n generalizing a with
  | zero => rfl
  | succ n ih => rw [State.ramValue, State.ramValue, hbyte, ih]

/-- An admitted read of an idle block (R67). -/
theorem step_read {width : AccessWidth} (hq : s.hostQueue = .read width (BitVec.ofNat 18 o) :: rest)
    (hb : s.status.busy = false) (ho : o < 2 ^ 18) (ha : admitted s.rom width o = true) :
    step s = .next { s with hostQueue := rest, hostData := s.readSpace width (spaceAt o) } := by
  rw [step_of_hostQueue hq, act, toNat_ofNat18 ho]
  refine (hostRead_idle (s := { s with hostQueue := rest }) hb ha).trans ?_
  cases spaceAt o with
  | reg r => cases r <;> rfl
  | ram m a => rw [State.readSpace, State.readSpace, ramValue_hostQueue]
  | _ => rfl

/-- An admitted write to an idle block, but to `CMD` (R67). -/
theorem step_write {width : AccessWidth} (hq : s.hostQueue = .write width (BitVec.ofNat 18 o) w :: rest)
    (hb : s.status.busy = false) (ho : o < 2 ^ 18) (hcmd : o ≠ 0xC) (ha : admitted s.rom width o = true) :
    step s = .next ({ s with hostQueue := rest }.writeSpace width w (spaceAt o)) := by
  have hne : BitVec.ofNat 18 o ≠ cmdOffset := fun h => hcmd (by rw [← toNat_ofNat18 ho, h]; rfl)
  rw [step_of_hostQueue hq, act, if_neg (fun h => hne h.1), toNat_ofNat18 ho]
  exact hostWrite_idle (s := { s with hostQueue := rest }) hb ha

theorem step_read_reg (hq : s.hostQueue = .read .w32 (BitVec.ofNat 18 o) :: rest) (hb : s.status.busy = false)
    (ho : o < 2 ^ 18) (h4 : o % 4 = 0) (hs : spaceAt o = .reg r) :
    step s = .next { s with hostQueue := rest, hostData := s.readReg r } := by
  rw [step_read hq hb ho (admitted_reg h4 hs), hs]
  rfl

theorem step_write_reg (hq : s.hostQueue = .write .w32 (BitVec.ofNat 18 o) w :: rest) (hb : s.status.busy = false)
    (ho : o < 2 ^ 18) (h4 : o % 4 = 0) (hcmd : o ≠ 0xC) (hs : spaceAt o = .reg r) :
    step s = .next ({ s with hostQueue := rest }.writeReg w r) := by
  rw [step_write hq hb ho hcmd (admitted_reg h4 hs), hs]
  rfl

/-! ### The words the host reads (R22 to R51) -/

theorem toNat_append_eq {m n : Nat} (x : BitVec m) (y : BitVec n) : (x ++ y).toNat = x.toNat * 2 ^ n + y.toNat := by
  rw [BitVec.toNat_append, ← Nat.shiftLeft_add_eq_or_of_lt y.isLt, Nat.shiftLeft_eq]

theorem word_eq_of_toNat {n : Nat} (h : w.toNat = n) : w = BitVec.ofNat 32 n := by
  rw [← h, BitVec.ofNat_toNat, BitVec.setWidth_eq]

/-- A word of fields in place is the sum of their values in place. -/
theorem readReg_fields (s : State) :
    s.ctrl.toWord.toNat = s.ctrl.irqEn.toNat + 2 * s.ctrl.outFmt.toNat ∧
    s.status.toWord.toNat = s.status.busy.toNat + 2 * s.status.done.toNat + 4 * s.status.err.toNat +
      8 * s.status.fatal.toNat + 16 * s.status.initDone.toNat + 2 ^ 8 * s.status.errCode.toNat ∧
    s.outPtrWord.toNat = 4 * s.outPtr.toNat ∧
    s.hdr.toWord.toNat = s.hdr.srid.toNat + 2 ^ 8 * s.hdr.ccid.toNat + 2 ^ 16 * s.hdr.fstat.toNat ∧
    s.geom.toWord.toNat = s.geom.nch.toNat + 2 ^ 8 * s.geom.fbits.toNat + 2 ^ 16 * s.geom.nbands.toNat +
      2 ^ 24 * s.geom.nqu.toNat ∧
    s.gparam0.toWord.toNat = s.gparam0.gmode.toNat + 2 ^ 8 * s.gparam0.gsu.toNat + 2 ^ 16 * s.gparam0.geu.toNat +
      2 ^ 24 * s.gparam0.gbnd.toNat ∧
    s.gparam1.toWord.toNat = s.gparam1.gsv.toNat + 2 ^ 8 * s.gparam1.gev.toNat := by
  simp only [Ctrl.toWord, Status.toWord, State.outPtrWord, Hdr.toWord, Geom.toWord, GParam0.toWord, GParam1.toWord,
    toNat_append_eq, BitVec.toNat_ofBool, BitVec.toNat_ofNat]
  omega

theorem sfcfg_toNat (r : SfCfg) :
    r.toWord.toNat = r.sfmode.toNat + 2 ^ 8 * r.sfblen.toNat + 2 ^ 16 * r.sfoff.toNat + 2 ^ 24 * r.sfwt.toNat := by
  simp only [SfCfg.toWord, toNat_append_eq, BitVec.toNat_ofNat]
  omega

/-- The registers of `REG` stand at their offsets and read as their fields in place (R22 to R39). -/
theorem readReg_regWords {k : Nat} (h : (o, k) ∈ Claims.regWords s) :
    ∃ r, spaceAt o = .reg r ∧ o < 2 ^ 18 ∧ o % 4 = 0 ∧ s.readReg r = BitVec.ofNat 32 k := by
  obtain ⟨hctrl, hstatus, hptr, hhdr, hgeom, hg0, hg1⟩ := readReg_fields s
  simp only [Claims.regWords, List.mem_append, List.mem_cons, List.not_mem_nil, or_false, Prod.mk.injEq] at h
  rcases h with (((⟨rfl, rfl⟩ | ⟨rfl, rfl⟩ | ⟨rfl, rfl⟩ | ⟨rfl, rfl⟩ | ⟨rfl, rfl⟩ | ⟨rfl, rfl⟩ | ⟨rfl, rfl⟩) |
    (⟨rfl, rfl⟩ | ⟨rfl, rfl⟩ | ⟨rfl, rfl⟩ | ⟨rfl, rfl⟩ | ⟨rfl, rfl⟩ | ⟨rfl, rfl⟩ | ⟨rfl, rfl⟩ | ⟨rfl, rfl⟩)) |
    (⟨rfl, rfl⟩ | ⟨rfl, rfl⟩))
  · exact ⟨.id, rfl, by decide, rfl, rfl⟩
  · exact ⟨.ctrl, rfl, by decide, rfl, word_eq_of_toNat hctrl⟩
  · exact ⟨.status, rfl, by decide, rfl, word_eq_of_toNat hstatus⟩
  · exact ⟨.cmd, rfl, by decide, rfl, word_eq_of_toNat rfl⟩
  · exact ⟨.arg, rfl, by decide, rfl, word_eq_of_toNat rfl⟩
  · exact ⟨.result, rfl, by decide, rfl, word_eq_of_toNat rfl⟩
  · exact ⟨.brPos, rfl, by decide, rfl, word_eq_of_toNat rfl⟩
  · exact ⟨.inLen, rfl, by decide, rfl, word_eq_of_toNat rfl⟩
  · exact ⟨.outPtr, rfl, by decide, rfl, word_eq_of_toNat hptr⟩
  · exact ⟨.bytesConsumed, rfl, by decide, rfl, word_eq_of_toNat rfl⟩
  · exact ⟨.errPos, rfl, by decide, rfl, word_eq_of_toNat rfl⟩
  · exact ⟨.errCmd, rfl, by decide, rfl, word_eq_of_toNat rfl⟩
  · exact ⟨.hdr, rfl, by decide, rfl, word_eq_of_toNat hhdr⟩
  · exact ⟨.flen, rfl, by decide, rfl, (BitVec.ofNat_toNat 32 s.flen).symm⟩
  · exact ⟨.geom, rfl, by decide, rfl, word_eq_of_toNat hgeom⟩
  · exact ⟨.gparam0, rfl, by decide, rfl, word_eq_of_toNat hg0⟩
  · exact ⟨.gparam1, rfl, by decide, rfl, word_eq_of_toNat hg1⟩

theorem units_at_of_getElem? {a : Units} (h : a[i]? = some v) : Units.at a i = v := by
  rw [units_at_eq, h, Option.getD_some]

theorem lines_at_of_getElem? {a : Lines} (h : a[i]? = some v) : Lines.at a i = v := by
  rw [lines_at_eq, h, Option.getD_some]

theorem windowBase_le (c : Chan) : Claims.windowBase c ≤ 0x4000 ∧ Claims.windowBase c % 4 = 0 := by cases c <;> decide

/-- The elements of a unit array stand at `base + 4·index` of its window (R41 to R44). -/
theorem readReg_unitArrays {base : Nat} {a : Units} (h : (base, a) ∈ Claims.unitArrays (s.chan c)) (hi : i < 34)
    (hv : a[i]? = some v) : ∃ r, spaceAt (Claims.windowBase c + base + 4 * i) = .reg r ∧ base ≤ 0x300 ∧ base % 4 = 0 ∧
      s.readReg r = v := by
  simp only [Claims.unitArrays, List.mem_cons, List.not_mem_nil, or_false, Prod.mk.injEq] at h
  rcases h with ⟨rfl, rfl⟩ | ⟨rfl, rfl⟩ | ⟨rfl, rfl⟩ | ⟨rfl, rfl⟩
  · exact ⟨_, spaceAt_sf c hi, by decide, rfl, units_at_of_getElem? hv⟩
  · exact ⟨_, spaceAt_prec c hi, by decide, rfl, units_at_of_getElem? hv⟩
  · exact ⟨_, spaceAt_precf c hi, by decide, rfl, units_at_of_getElem? hv⟩
  · exact ⟨_, spaceAt_pmask c hi, by decide, rfl, units_at_of_getElem? hv⟩

/-- The elements of a line array stand at `base + 4·index` of its window (R45 to R49). -/
theorem readReg_lineArrays {base : Nat} {a : Lines} (h : (base, a) ∈ Claims.lineArrays (s.chan c)) (hi : i < 256)
    (hv : a[i]? = some v) : ∃ r, spaceAt (Claims.windowBase c + base + 4 * i) = .reg r ∧ base ≤ 0x1400 ∧ base % 4 = 0 ∧
      s.readReg r = v := by
  simp only [Claims.lineArrays, List.mem_cons, List.not_mem_nil, or_false, Prod.mk.injEq] at h
  rcases h with ⟨rfl, rfl⟩ | ⟨rfl, rfl⟩ | ⟨rfl, rfl⟩ | ⟨rfl, rfl⟩ | ⟨rfl, rfl⟩
  · exact ⟨_, spaceAt_qspec c hi, by decide, rfl, lines_at_of_getElem? hv⟩
  · exact ⟨_, spaceAt_qspecf c hi, by decide, rfl, lines_at_of_getElem? hv⟩
  · exact ⟨_, spaceAt_spec c hi, by decide, rfl, lines_at_of_getElem? hv⟩
  · exact ⟨_, spaceAt_pcm c hi, by decide, rfl, lines_at_of_getElem? hv⟩
  · exact ⟨_, spaceAt_prev c hi, by decide, rfl, lines_at_of_getElem? hv⟩

/-- Settles O13: each listed word stands at its offset of the address map, and an unlisted one reads 0. -/
theorem readsReturnTheListedWords : Obligations.ReadsReturnTheListedWords := by
  rintro s rest o v ho hq hb (⟨k, hk, rfl⟩ | ⟨i, hi, rfl, hv⟩ | ⟨c, base, a, i, ha, hi, rfl, hv⟩ |
    ⟨c, base, a, n, ha, hn, rfl, hv⟩ | ⟨c, rfl, rfl⟩ | ⟨c, rfl, rfl⟩ | ⟨hu, rfl⟩)
  · obtain ⟨r, hs, -, h4, hr⟩ := readReg_regWords hk
    rw [step_read_reg hq hb ho h4 hs, hr]
  · rw [step_read_reg hq hb ho (by omega) (spaceAt_gradient hi), ← units_at_of_getElem? hv]
    rfl
  · obtain ⟨r, hs, -, h4, hr⟩ := readReg_unitArrays ha hi hv
    have := windowBase_le c
    rw [step_read_reg hq hb ho (by omega) hs, hr]
  · obtain ⟨r, hs, -, h4, hr⟩ := readReg_lineArrays ha hn hv
    have := windowBase_le c
    rw [step_read_reg hq hb ho (by omega) hs, hr]
  · rw [step_read_reg hq hb ho (by cases c <;> rfl) (spaceAt_sfcfg c), ← word_eq_of_toNat (sfcfg_toNat _)]
    rfl
  · rw [step_read_reg hq hb ho (by cases c <;> rfl) (spaceAt_mbits c), BitVec.ofNat_toNat]
    rfl
  · rw [step_read hq hb ho (admitted_unlisted hu)]
    rcases spaceAt_unlisted hu with hs | hs <;> rw [hs] <;> rfl

end Sys2Proof.Proofs.HostBus
end

section
/-! Host writes (R21 to R51), the accesses that break a host duty (R66, R72), the RAMs (R60, R63), and reset (R300). -/

namespace Sys2Proof.Proofs.HostWrites

open Sys2Proof.Machine Sys2Proof.Claims Sys2Proof.Proofs.FatalLatch Sys2Proof.Proofs.HostBus Sys2Proof.Proofs.PcmOut

variable {s t : State} {c : Chan} {w v : Word} {o i : Nat} {r : HostReg} {rest : List HostAction}

/-! ### A write to a listed word -/

/-- The listed word at an offset is unique. -/
theorem reg_unique {r' : HostReg} (h : spaceAt o = .reg r) (h' : spaceAt o = .reg r') : r = r' := by
  rw [h] at h'
  exact HostSpace.reg.inj h'

/-- A write of the register that stands at an offset changes that register alone. -/
theorem storesOnly_writeReg (s : State) (w : Word) (h : spaceAt o = .reg r) :
    Claims.storesOnly s (s.writeReg w r) o w := by
  unfold Claims.storesOnly
  refine ⟨?_, ?_, ?_, ?_, ?_, ?_, ?_, ?_, ?_, ?_, fun i hi => ?_, fun c => ⟨fun i hi => ⟨?_, ?_, ?_, ?_⟩,
    fun n hn => ⟨?_, ?_, ?_, ?_⟩, ?_, ?_⟩⟩ <;> rintro rfl
  · obtain rfl := reg_unique h (r' := .ctrl) rfl
    rfl
  · obtain rfl := reg_unique h (r' := .arg) rfl
    rfl
  · obtain rfl := reg_unique h (r' := .brPos) rfl
    rfl
  · obtain rfl := reg_unique h (r' := .inLen) rfl
    rfl
  · obtain rfl := reg_unique h (r' := .outPtr) rfl
    rfl
  · obtain rfl := reg_unique h (r' := .hdr) rfl
    rfl
  · obtain rfl := reg_unique h (r' := .flen) rfl
    rfl
  · obtain rfl := reg_unique h (r' := .geom) rfl
    rfl
  · obtain rfl := reg_unique h (r' := .gparam0) rfl
    rfl
  · obtain rfl := reg_unique h (r' := .gparam1) rfl
    rfl
  · obtain rfl := reg_unique h (spaceAt_gradient hi)
    rfl
  · obtain rfl := reg_unique h (spaceAt_sf c hi)
    cases c <;> rfl
  · obtain rfl := reg_unique h (spaceAt_prec c hi)
    cases c <;> rfl
  · obtain rfl := reg_unique h (spaceAt_precf c hi)
    cases c <;> rfl
  · obtain rfl := reg_unique h (spaceAt_pmask c hi)
    cases c <;> rfl
  · obtain rfl := reg_unique h (spaceAt_qspec c hn)
    cases c <;> rfl
  · obtain rfl := reg_unique h (spaceAt_qspecf c hn)
    cases c <;> rfl
  · obtain rfl := reg_unique h (spaceAt_spec c hn)
    cases c <;> rfl
  · obtain rfl := reg_unique h (spaceAt_pcm c hn)
    cases c <;> rfl
  · obtain rfl := reg_unique h (spaceAt_sfcfg c)
    cases c <;> rfl
  · obtain rfl := reg_unique h (spaceAt_mbits c)
    cases c <;> rfl

/-! ### What a written word reads back as (R21, R24 to R36, R50, R51) -/

theorem ctrl_masked (w : Word) : (Ctrl.ofWord w).toWord = w &&& 0x3 := by
  refine BitVec.eq_of_getLsbD_eq fun k hk => ?_
  simp only [Ctrl.toWord, BitVec.getLsbD_append]
  interval_cases k <;> simp [Ctrl.ofWord]

theorem outPtr_masked (w : Word) : (s.setOutPtr w).outPtrWord = w &&& 0xFFFFFFFC := by
  refine BitVec.eq_of_getLsbD_eq fun k hk => ?_
  simp only [State.outPtrWord, setOutPtr_outPtr, BitVec.getLsbD_append]
  interval_cases k <;> simp

theorem hdr_masked (w : Word) : (Hdr.ofWord w).toWord = w &&& 0xFFFFFF := by
  refine BitVec.eq_of_getLsbD_eq fun k hk => ?_
  simp only [Hdr.toWord, BitVec.getLsbD_append]
  interval_cases k <;> simp [Hdr.ofWord]

theorem flen_masked (w : Word) : (w.extractLsb' 0 16).zeroExtend 32 = w &&& 0xFFFF := by
  ext k hk
  interval_cases k <;> simp

theorem geom_masked (w : Word) : (Geom.ofWord w).toWord = w &&& 0xFFFF0F03 := by
  refine BitVec.eq_of_getLsbD_eq fun k hk => ?_
  simp only [Geom.toWord, BitVec.getLsbD_append]
  interval_cases k <;> simp [Geom.ofWord]

theorem gparam0_whole (w : Word) : (GParam0.ofWord w).toWord = w &&& 0xFFFFFFFF := by
  refine BitVec.eq_of_getLsbD_eq fun k hk => ?_
  simp only [GParam0.toWord, BitVec.getLsbD_append]
  interval_cases k <;> simp [GParam0.ofWord]

theorem gparam1_masked (w : Word) : (GParam1.ofWord w).toWord = w &&& 0xFFFF := by
  refine BitVec.eq_of_getLsbD_eq fun k hk => ?_
  simp only [GParam1.toWord, BitVec.getLsbD_append]
  interval_cases k <;> simp [GParam1.ofWord]

theorem sfcfg_masked (w : Word) : (SfCfg.ofWord w).toWord = w &&& 0x07FF0F01 := by
  refine BitVec.eq_of_getLsbD_eq fun k hk => ?_
  simp only [SfCfg.toWord, BitVec.getLsbD_append]
  interval_cases k <;> simp [SfCfg.ofWord]

theorem mbits_masked (w : Word) : (w.extractLsb' 0 4).zeroExtend 32 = w &&& 0xF := by
  ext k hk
  interval_cases k <;> simp

theorem whole_word (w : Word) : w = w &&& 0xFFFFFFFF := BitVec.and_allOnes.symm

/-- `IN_LEN` is capped at the size of the input buffer (R29). -/
theorem inLen_capped (s : State) (w : Word) :
    (s.setInLen w).inLen = if s.rom.inBufBytes < w.toNat then BitVec.ofNat 32 s.rom.inBufBytes else w := by
  rw [setInLen_inLen]
  split_ifs with h
  · rw [min_eq_right h.le]
  · rw [min_eq_left (Nat.not_lt.mp h), Word.ofNat, BitVec.ofNat_toNat, BitVec.setWidth_eq]

/-- Offset `o` is that of a listed word which a write of `w` leaves reading as `v`. -/
def ReadsBack (s : State) (o : Nat) (w v : Word) : Prop :=
  ∃ r, spaceAt o = .reg r ∧ o < 2 ^ 18 ∧ o % 4 = 0 ∧ o ≠ 0xC ∧ r ≠ .status ∧ (s.writeReg w r).readReg r = v

theorem readsBack_storedBits {m : Word} (s : State) (h : (o, m) ∈ Claims.storedBits) : ReadsBack s o w (w &&& m) := by
  simp only [Claims.storedBits, List.mem_append, List.mem_cons, List.not_mem_nil, or_false, Prod.mk.injEq] at h
  rcases h with (⟨rfl, rfl⟩ | ⟨rfl, rfl⟩ | ⟨rfl, rfl⟩ | ⟨rfl, rfl⟩ | ⟨rfl, rfl⟩ | ⟨rfl, rfl⟩ | ⟨rfl, rfl⟩ | ⟨rfl, rfl⟩ |
    ⟨rfl, rfl⟩) | (⟨rfl, rfl⟩ | ⟨rfl, rfl⟩ | ⟨rfl, rfl⟩ | ⟨rfl, rfl⟩)
  · exact ⟨.ctrl, rfl, by decide, rfl, by decide, by decide, ctrl_masked w⟩
  · exact ⟨.arg, rfl, by decide, rfl, by decide, by decide, whole_word w⟩
  · exact ⟨.brPos, rfl, by decide, rfl, by decide, by decide, whole_word w⟩
  · exact ⟨.outPtr, rfl, by decide, rfl, by decide, by decide, outPtr_masked w⟩
  · exact ⟨.hdr, rfl, by decide, rfl, by decide, by decide, hdr_masked w⟩
  · exact ⟨.flen, rfl, by decide, rfl, by decide, by decide, flen_masked w⟩
  · exact ⟨.geom, rfl, by decide, rfl, by decide, by decide, geom_masked w⟩
  · exact ⟨.gparam0, rfl, by decide, rfl, by decide, by decide, gparam0_whole w⟩
  · exact ⟨.gparam1, rfl, by decide, rfl, by decide, by decide, gparam1_masked w⟩
  · exact ⟨.sfcfg .c0, rfl, by decide, rfl, by decide, by decide, sfcfg_masked w⟩
  · exact ⟨.mbits .c0, rfl, by decide, rfl, by decide, by decide, mbits_masked w⟩
  · exact ⟨.sfcfg .c1, rfl, by decide, rfl, by decide, by decide, sfcfg_masked w⟩
  · exact ⟨.mbits .c1, rfl, by decide, rfl, by decide, by decide, mbits_masked w⟩

theorem units_at_put_same (a : Units) (w : Word) (hi : i < 34) : Units.at (Units.put a i w) i = w := by
  rw [units_at_put, if_pos ⟨rfl, hi⟩]

theorem readsBack_array (s : State) (h : Claims.inWritableArray o) : ReadsBack s o w w := by
  obtain ⟨i, hi, rfl⟩ | ⟨c, base, i, hbase, hi, rfl⟩ | ⟨c, base, n, hbase, hn, rfl⟩ := h
  · exact ⟨_, spaceAt_gradient hi, by omega, by omega, by omega, by simp, units_at_put_same _ w hi⟩
  · have hc := windowBase_le c
    have hlow : 0x2000 ≤ Claims.windowBase c := by cases c <;> decide
    simp only [List.mem_cons, List.not_mem_nil, or_false] at hbase
    rcases hbase with rfl | rfl | rfl | rfl
    · exact ⟨_, spaceAt_sf c hi, by omega, by omega, by omega, by simp,
        by simp [State.writeReg, State.readReg, units_at_put_same _ w hi]⟩
    · exact ⟨_, spaceAt_prec c hi, by omega, by omega, by omega, by simp,
        by simp [State.writeReg, State.readReg, units_at_put_same _ w hi]⟩
    · exact ⟨_, spaceAt_precf c hi, by omega, by omega, by omega, by simp,
        by simp [State.writeReg, State.readReg, units_at_put_same _ w hi]⟩
    · exact ⟨_, spaceAt_pmask c hi, by omega, by omega, by omega, by simp,
        by simp [State.writeReg, State.readReg, units_at_put_same _ w hi]⟩
  · have hc := windowBase_le c
    have hlow : 0x2000 ≤ Claims.windowBase c := by cases c <;> decide
    simp only [List.mem_cons, List.not_mem_nil, or_false] at hbase
    rcases hbase with rfl | rfl | rfl | rfl
    · exact ⟨_, spaceAt_qspec c hn, by omega, by omega, by omega, by simp,
        by simp [State.writeReg, State.readReg, Imdct.lines_at_put_same hn]⟩
    · exact ⟨_, spaceAt_qspecf c hn, by omega, by omega, by omega, by simp,
        by simp [State.writeReg, State.readReg, Imdct.lines_at_put_same hn]⟩
    · exact ⟨_, spaceAt_spec c hn, by omega, by omega, by omega, by simp,
        by simp [State.writeReg, State.readReg, Imdct.lines_at_put_same hn]⟩
    · exact ⟨_, spaceAt_pcm c hn, by omega, by omega, by omega, by simp,
        by simp [State.writeReg, State.readReg, Imdct.lines_at_put_same hn]⟩

@[simp] theorem writeReg_hostQueue (s : State) (w : Word) (r : HostReg) : (s.writeReg w r).hostQueue = s.hostQueue := by
  cases r <;> simp [State.writeReg]

/-- An idle block's listed word, written and read back. -/
theorem write_then_read (hb : s.status.busy = false) (hq : s.hostQueue = .write .w32 (BitVec.ofNat 18 o) w :: rest)
    (h : ReadsBack { s with hostQueue := rest } o w v) :
    ∃ t, step s = .next t ∧ Claims.storesOnly { s with hostQueue := rest } t o w ∧
      ∀ rest', rest = .read .w32 (BitVec.ofNat 18 o) :: rest' →
        step t = .next { t with hostQueue := rest', hostData := v } := by
  obtain ⟨r, hs, ho, h4, hcmd, hr, hv⟩ := h
  refine ⟨_, step_write_reg hq hb ho h4 hcmd hs, storesOnly_writeReg _ w hs, fun rest' hrest => ?_⟩
  rw [← hv]
  refine step_read_reg ?_ ?_ ho h4 hs
  · rw [writeReg_hostQueue]
    exact hrest
  · rw [writeReg_status_of_ne hr]
    exact hb

/-- Settles O14: each listed offset is one register's or one array element's, which stores its own fields. -/
theorem writtenWordsReadBackTruncatedToTheirFields : Obligations.WrittenWordsReadBackTruncatedToTheirFields := by
  rintro s rest o w v hb hq (⟨m, hm, rfl⟩ | ⟨harray, rfl⟩ | ⟨rfl, rfl⟩)
  · exact write_then_read hb hq (readsBack_storedBits _ hm)
  · exact write_then_read hb hq (readsBack_array _ harray)
  · exact write_then_read hb hq ⟨.inLen, rfl, by decide, rfl, by decide, by decide, inLen_capped _ w⟩

/-! ### Writes that store nothing, and `STATUS` (R21, R25, R275) -/

theorem step_write_status (hq : s.hostQueue = .write .w32 (BitVec.ofNat 18 0x008) w :: rest) :
    step s = .next { s with
      hostQueue := rest, status := if s.status.busy then s.status else s.status.hostWrite w } := by
  cases hb : s.status.busy with
  | false => exact step_write_reg hq hb (by decide) rfl (by decide) rfl
  | true =>
    have hadm : admitted s.rom .w32 0x008 = true := rfl
    have hstatus : spaceAt 0x008 = .reg .status := rfl
    rw [step_of_hostQueue hq, act, if_neg (by decide), toNat_ofNat18 (by decide)]
    simp [hostWrite, hadm, hb, hstatus]

theorem status_hostWrite_eq (f : Status) (w : Word) :
    f.hostWrite w = { f with done := f.done && !w.getLsbD 1, err := f.err && (f.fatal || !w.getLsbD 2) } := by
  rw [Status.hostWrite, Bool.not_and, Bool.not_not, Bool.or_comm]

theorem unlisted_lt (h : Claims.unlisted o) : o < 2 ^ 18 ∧ o ≠ 0xC := by
  obtain ⟨hlt, -, hlow, -⟩ := h
  omega

/-- Settles O15: `STATUS` keeps all but `DONE` and `ERR`, and the other words named store nothing. -/
theorem statusIsWriteOneToClearAndReadOnlyWordsKeep : Obligations.StatusIsWriteOneToClearAndReadOnlyWordsKeep := by
  intro s rest o w hq
  refine ⟨?_, fun hb h => ?_⟩
  · rintro rfl
    rw [step_write_status hq, status_hostWrite_eq]
  · obtain hro | ⟨c, n, hn, rfl⟩ | hu := h
    · simp only [List.mem_cons, List.not_mem_nil, or_false] at hro
      rcases hro with rfl | rfl | rfl | rfl | rfl
      · exact step_write_reg hq hb (by decide) rfl (by decide) (r := .id) rfl
      · exact step_write_reg hq hb (by decide) rfl (by decide) (r := .result) rfl
      · exact step_write_reg hq hb (by decide) rfl (by decide) (r := .bytesConsumed) rfl
      · exact step_write_reg hq hb (by decide) rfl (by decide) (r := .errPos) rfl
      · exact step_write_reg hq hb (by decide) rfl (by decide) (r := .errCmd) rfl
    · have hc := windowBase_le c
      exact step_write_reg hq hb (by omega) (by omega) (by omega) (spaceAt_prev c hn)
    · obtain ⟨ho, hcmd⟩ := unlisted_lt hu
      rw [step_write hq hb ho hcmd (admitted_unlisted hu)]
      rcases spaceAt_unlisted hu with hs | hs <;> rw [hs] <;> rfl

/-! ### Accesses that break a host duty (R66, R72) -/

theorem widthBytes_eq (width : AccessWidth) : width.bytes = widthBytes width := by cases width <;> rfl

/-- An offset of `REG` or `CHAN` is a listed word or a reserved one. -/
theorem spaceAt_word (h : o < 0x200 ∨ 0x2000 ≤ o ∧ o < 0x6000) : ∃ x, spaceAt o = wordSpace x := by
  unfold spaceAt
  split_ifs with hreg h0 h1
  · exact ⟨_, rfl⟩
  · exact ⟨_, rfl⟩
  · exact ⟨_, rfl⟩
  all_goals omega

theorem spaceAt_input (h : 0x10000 ≤ o) (h' : o < 0x20000) : spaceAt o = .ram .input (o - 0x10000) := by
  simp (disch := omega) only [spaceAt, if_neg, if_pos]

theorem spaceAt_output (h : 0x20000 ≤ o) : spaceAt o = .ram .output (o - 0x20000) := by
  simp (disch := omega) only [spaceAt, if_neg, if_pos]

theorem not_admitted_misaligned {c : Config} {width : AccessWidth} (h : o % widthBytes width ≠ 0) :
    admitted c width o = false := by
  rw [admitted, widthBytes_eq, beq_false_of_ne h, Bool.false_and]

/-- In `REG` and `CHAN` aligned 32-bit accesses only. -/
theorem not_admitted_word {c : Config} {width : AccessWidth} (h : o < 0x200 ∨ 0x2000 ≤ o ∧ o < 0x6000)
    (hw : widthBytes width ≠ 4 ∨ o % 4 ≠ 0) : admitted c width o = false := by
  obtain ⟨x, hx⟩ := spaceAt_word h
  cases width with
  | w32 => exact not_admitted_misaligned (hw.resolve_left (· rfl))
  | w8 | w16 => cases x <;> rw [admitted, hx, wordSpace] <;> exact Bool.and_false _

/-- In a RAM accesses inside it only. -/
theorem not_admitted_ram {c : Config} {width : AccessWidth} {m : Ram} {a : Nat} (hs : spaceAt o = .ram m a)
    (h : ramSize c m < a + widthBytes width) : admitted c width o = false := by
  simp [admitted, hs, widthBytes_eq, h]

/-- One entry of a list of offsets, tried before the rest. -/
theorem entry_ne {p : Prop} [Decidable p] {x : HostReg} {rest : Option HostReg} (hx : x ≠ r) (hrest : rest ≠ some r) :
    (if p then some x else rest) ≠ some r := by
  split
  · exact fun h => hx (Option.some.inj h)
  · exact hrest

theorem or_ne {x y : Option HostReg} (hx : x ≠ some r) (hy : y ≠ some r) : x.or y ≠ some r := by
  cases x with
  | none => exact hy
  | some x => exact hx

theorem chanRegAt_ne_status (c : Chan) (o : Nat) : chanRegAt c o ≠ some .status := by
  have hunit (base : Nat) (f : Nat → HostReg) (hf : ∀ i, f i ≠ .status) : unitElem base o f ≠ some .status :=
    entry_ne (hf _) nofun
  have hline (base : Nat) (f : Nat → HostReg) (hf : ∀ i, f i ≠ .status) : lineElem base o f ≠ some .status :=
    entry_ne (hf _) nofun
  unfold chanRegAt
  refine or_ne (hunit _ _ nofun) <| or_ne (hunit _ _ nofun) <| or_ne (hunit _ _ nofun) <| or_ne (hunit _ _ nofun) <|
    or_ne (hline _ _ nofun) <| or_ne (hline _ _ nofun) <| or_ne (hline _ _ nofun) <| or_ne (hline _ _ nofun) <|
    or_ne (hline _ _ nofun) <| entry_ne nofun <| entry_ne nofun nofun

theorem regAt_ne_status (h : o ≠ 0x008) : regAt o ≠ some .status := by
  rw [regAt, if_neg h]
  repeat' refine entry_ne nofun ?_
  exact nofun

/-- `STATUS` stands at one offset only (R25). -/
theorem eq_of_spaceAt_status (h : spaceAt o = .reg .status) : o = 0x008 := by
  have hword {x : Option HostReg} (hx : wordSpace x = .reg .status) : x = some .status := by
    cases x with
    | none => cases hx
    | some r => rw [HostSpace.reg.inj hx]
  unfold spaceAt at h
  split_ifs at h
  · exact not_ne_iff.mp fun ho => regAt_ne_status ho (hword h)
  · exact absurd (hword h) (chanRegAt_ne_status _ _)
  · exact absurd (hword h) (chanRegAt_ne_status _ _)

theorem hostRead_refused {width : AccessWidth} (h : admitted s.rom width o = false) :
    hostRead s width o = .refused .hostDutyViolation := if_pos h

theorem hostWrite_refused {width : AccessWidth} (h : admitted s.rom width o = false) :
    hostWrite s width o w = .refused .hostDutyViolation := if_pos h

theorem hostWrite_refused_of_busy {width : AccessWidth} (hb : s.status.busy = true) (ho : o ≠ 0x008) :
    hostWrite s width o w = .refused .hostDutyViolation := by
  have hs : spaceAt o ≠ .reg .status := fun h => ho (eq_of_spaceAt_status h)
  simp [hostWrite, hb, hs]

theorem submit_refused_of_busy (hb : s.status.busy = true) : submit w s = .refused .hostDutyViolation := by
  simp [submit, State.ready, hb]

/-- The accesses that R66 does not admit. -/
theorem not_admitted_of_duty {c : Config} {width : AccessWidth}
    (h : (o < 0x200 ∨ 0x2000 ≤ o ∧ o < 0x6000) ∧ (widthBytes width ≠ 4 ∨ o % 4 ≠ 0) ∨
      0x10000 ≤ o ∧ o < 0x20000 ∧ (o % widthBytes width ≠ 0 ∨ 0x10000 + c.inBufBytes < o + widthBytes width) ∨
      0x20000 ≤ o ∧ (o % widthBytes width ≠ 0 ∨ 0x20000 + c.outBufBytes < o + widthBytes width)) :
    admitted c width o = false := by
  obtain ⟨hword, hw⟩ | ⟨hlo, hhi, hal | hend⟩ | ⟨hlo, hal | hend⟩ := h
  · exact not_admitted_word hword hw
  · exact not_admitted_misaligned hal
  · refine not_admitted_ram (spaceAt_input hlo hhi) ?_
    rw [ramSize]
    omega
  · exact not_admitted_misaligned hal
  · refine not_admitted_ram (spaceAt_output hlo) ?_
    rw [ramSize]
    omega

/-- Settles O16: an access is refused because R66 does not admit it, or as a write to a busy block. -/
theorem accessesThatBreakAHostDutyHaveNoStep : Obligations.AccessesThatBreakAHostDutyHaveNoStep := by
  rintro s rest a width o w n hq ha rfl h
  have hduty : admitted s.rom width o.toNat = false ∨ a = .write width o w ∧ s.status.busy = true ∧ o ≠ 0x00008 := by
    obtain h | h | h | h := h
    · exact .inl (not_admitted_of_duty (.inl h))
    · exact .inl (not_admitted_of_duty (.inr (.inl h)))
    · exact .inl (not_admitted_of_duty (.inr (.inr h)))
    · exact .inr h
  rw [step_of_hostQueue hq]
  obtain rfl | rfl := ha
  · obtain hadm | ⟨h, -⟩ := hduty
    · exact hostRead_refused hadm
    · cases h
  · rw [act]
    obtain hadm | ⟨-, hb, ho⟩ := hduty
    · have hne : ¬(o = cmdOffset ∧ width = .w32) := by
        rintro ⟨rfl, rfl⟩
        exact Bool.false_ne_true (hadm.symm.trans rfl)
      rw [if_neg hne]
      exact hostWrite_refused hadm
    · split
      · exact submit_refused_of_busy hb
      · refine hostWrite_refused_of_busy hb fun h => ho ?_
        exact BitVec.eq_of_toNat_eq h

/-! ### The bytes of the RAMs (R60, R63, R66) -/

section
variable {m : Ram} {a b k n : Nat}

theorem ramByteAt_writeRam_at (s : State) (w : Word) (h : k < n) :
    (s.writeRam m a n w).ramByteAt m (a + k) = w.extractLsb' (8 * k) 8 := by
  have hlen : k < (leBytes n w).length := by rwa [length_leBytes]
  have hbyte : (leBytes n w)[k] = w.extractLsb' (8 * k) 8 := by
    rw [← Option.some_inj, ← List.getElem?_eq_getElem, leBytes_getElem? h]
  cases m
  · rw [State.writeRam, State.ramByteAt, State.inByte, get?_putBytes_at _ _ _ hlen, hbyte, Option.getD_some]
  · rw [State.writeRam, State.ramByteAt, State.outByte, get?_putBytes_at _ _ _ hlen, hbyte, Option.getD_some]

theorem ramByteAt_writeRam_outside (s : State) (w : Word) (h : b < a ∨ a + n ≤ b) :
    (s.writeRam m a n w).ramByteAt m b = s.ramByteAt m b := by
  have hout : b < a ∨ a + (leBytes n w).length ≤ b := by rwa [length_leBytes]
  cases m
  · simp only [State.writeRam, State.ramByteAt, State.inByte, get?_putBytes_other _ _ _ hout]
  · simp only [State.writeRam, State.ramByteAt, State.outByte, get?_putBytes_other _ _ _ hout]

/-- A byte of the input is 8 bits of the stream, most significant first (R63). -/
theorem inputBit_byte (s : State) (a : Nat) {j : Nat} (hj : j < 8) :
    inputBit s (8 * a + j) = (s.inByte a).getLsbD (7 - j) := by
  rw [inputBit, show (8 * a + j) / 8 = a by omega, show (8 * a + j) % 8 = j by omega]

theorem ramValue_lt (s : State) (m : Ram) (a n : Nat) : s.ramValue m a n < 2 ^ (8 * n) := by
  induction n generalizing a with
  | zero => exact Nat.one_pos
  | succ n ih =>
    have hbyte := (s.ramByteAt m a).isLt
    have hrest := ih (a + 1)
    rw [State.ramValue, Nat.mul_succ, pow_add]
    omega

/-- Byte `k` of a little-endian value is the byte at `a + k` (R64). -/
theorem ramValue_byte (s : State) (m : Ram) (a : Nat) (h : k < n) :
    s.ramValue m a n >>> (8 * k) % 2 ^ 8 = (s.ramByteAt m (a + k)).toNat := by
  induction n generalizing a k with
  | zero => cases h
  | succ n ih =>
    have hbyte := (s.ramByteAt m a).isLt
    rw [State.ramValue]
    cases k with
    | zero =>
      simp only [Nat.mul_zero, Nat.shiftRight_zero, Nat.add_zero]
      omega
    | succ k =>
      have hdrop : ((s.ramByteAt m a).toNat + 256 * s.ramValue m (a + 1) n) >>> 8 = s.ramValue m (a + 1) n := by
        rw [Nat.shiftRight_eq_div_pow]
        omega
      rw [Nat.mul_succ, Nat.add_comm (8 * k), Nat.shiftRight_add, hdrop, ih (a + 1) (by omega), Nat.add_right_comm,
        Nat.add_assoc]

/-- What a read of `n` bytes returns: the bytes in place, zeros above. -/
theorem ramWord_bytes (s : State) (m : Ram) (a : Nat) (hn : n ≤ 4) :
    (∀ k, k < n → (Word.ofNat (s.ramValue m a n)).extractLsb' (8 * k) 8 = s.ramByteAt m (a + k)) ∧
    ∀ j, 8 * n ≤ j → (Word.ofNat (s.ramValue m a n)).getLsbD j = false := by
  have hlt := ramValue_lt s m a n
  have hpow : 2 ^ (8 * n) ≤ 2 ^ 32 := Nat.pow_le_pow_right (by decide) (by omega)
  refine ⟨fun k hk => BitVec.eq_of_toNat_eq ?_, fun j hj => ?_⟩
  · rw [BitVec.extractLsb'_toNat, BitVec.toNat_ofNat, Nat.mod_eq_of_lt (hlt.trans_le hpow), ramValue_byte s m a hk]
  · rw [BitVec.getLsbD, BitVec.toNat_ofNat, Nat.mod_eq_of_lt (hlt.trans_le hpow)]
    exact Nat.testBit_eq_false_of_lt (hlt.trans_le (Nat.pow_le_pow_right (by decide) hj))

theorem admitted_ramAccess {c : Config} {width : AccessWidth} (hs : spaceAt o = .ram m a)
    (hal : o % widthBytes width = 0) (hfit : a + widthBytes width ≤ ramSize c m) : admitted c width o = true := by
  simp [admitted, hs, widthBytes_eq, hal, hfit]

end

theorem widthBytes_le (width : AccessWidth) : 0 < widthBytes width ∧ widthBytes width ≤ 4 := by cases width <;> decide

/-- The bases of the RAM windows are multiples of every width. -/
theorem ram_offset_aligned (width : AccessWidth) {a : Nat} (h : a % widthBytes width = 0) :
    (0x10000 + a) % widthBytes width = 0 ∧ (0x20000 + a) % widthBytes width = 0 := by
  cases width <;> simp only [widthBytes] at h ⊢ <;> omega

/-- Settles O17: an aligned access inside a RAM is admitted, and stores or returns the bytes from its address up. -/
theorem hostAccessesReachTheBytesOfTheRams : Obligations.HostAccessesReachTheBytesOfTheRams := by
  rintro s rest width n a w hb rfl hal
  obtain ⟨hpos, hn⟩ := widthBytes_le width
  obtain ⟨hin, hout, -⟩ : s.rom.inBufBytes ≤ 65536 ∧ s.rom.outBufBytes ≤ 131072 ∧ _ := Common.header_bounds s.cfg
  obtain ⟨halIn, halOut⟩ := ram_offset_aligned width hal
  refine ⟨fun hfit => ?_, fun hfit => ?_⟩
  · have hs : spaceAt (0x10000 + a) = .ram .input a := by
      rw [spaceAt_input (by omega) (by omega), Nat.add_sub_cancel_left]
    have hadm : admitted s.rom width (0x10000 + a) = true := admitted_ramAccess hs halIn hfit
    refine ⟨fun hq => ?_, fun hq => ?_⟩
    · have hstep := step_write hq hb (by omega) (by omega) hadm
      rw [hs, State.writeSpace, widthBytes_eq] at hstep
      have hat {k : Nat} (hk : k < widthBytes width) :=
        ramByteAt_writeRam_at (m := .input) (a := a) { s with hostQueue := rest } w hk
      have hother {b : Nat} (hk : b < a ∨ a + widthBytes width ≤ b) :=
        ramByteAt_writeRam_outside (m := .input) { s with hostQueue := rest } w hk
      refine ⟨_, hstep, rfl, fun k hk => ⟨hat hk, fun j hj => ?_⟩, fun b hk => hother hk, fun p hp => ?_, fun _ => rfl⟩
      · rw [inputBit_byte _ _ hj]
        refine (congrArg (·.getLsbD (7 - j)) (hat hk)).trans ?_
        rw [BitVec.getLsbD_extractLsb', decide_eq_true (by omega), Bool.true_and]
      · exact congrArg (·.getLsbD (7 - p % 8)) (hother (b := p / 8) (by omega))
    · have hstep := step_read hq hb (by omega) hadm
      rw [hs, State.readSpace, widthBytes_eq] at hstep
      exact ⟨_, hstep, ramWord_bytes s .input a hn⟩
  · have hs : spaceAt (0x20000 + a) = .ram .output a := by
      rw [spaceAt_output (by omega), Nat.add_sub_cancel_left]
    have hadm : admitted s.rom width (0x20000 + a) = true := admitted_ramAccess hs halOut hfit
    refine ⟨fun hq => ?_, fun hq => ?_⟩
    · have hstep := step_write hq hb (by omega) (by omega) hadm
      rw [hs, State.writeSpace, widthBytes_eq] at hstep
      exact ⟨_, hstep, rfl, fun k hk => ramByteAt_writeRam_at (m := .output) { s with hostQueue := rest } w hk,
        fun b hk => ramByteAt_writeRam_outside (m := .output) { s with hostQueue := rest } w hk, fun _ => rfl⟩
    · have hstep := step_read hq hb (by omega) hadm
      rw [hs, State.readSpace, widthBytes_eq] at hstep
      exact ⟨_, hstep, ramWord_bytes s .output a hn⟩

/-! ### Reset (R300) -/

theorem units_getD_replicate (h : i < 34) : (Vector.replicate 34 (0 : Word)).getD i 1 = 0 := by
  simp [Vector.getD, h]

theorem lines_getD_replicate (h : i < 256) : (Vector.replicate 256 (0 : Word)).getD i 1 = 0 := by
  simp [Vector.getD, h]

theorem lutLookup_reset (id w : Nat) : lutLookup ((Vector.replicate 13 ([] : List LutRun)).getD id []) w = none := by
  by_cases h : id < 13 <;> simp [Vector.getD, h, lutLookup]

theorem chan_resetInput (s : State) (c : Chan) : (resetInput s).chan c = Channel.reset s.freeCtr c := by cases c <;> rfl

/-- Settles O12: each clause is a field of the state right after reset. -/
theorem resetSetsEveryRegister : Obligations.ResetSetsEveryRegister := by
  intro s rest hq
  refine ⟨resetInput { s with hostQueue := rest }, step_of_hostQueue hq, rfl, rfl, rfl, rfl, rfl, rfl, rfl, rfl, rfl, rfl,
    rfl, rfl, rfl, rfl, rfl, rfl, rfl, rfl, rfl, fun i hi => units_getD_replicate hi, fun c i hi => ?_, fun c n hn => ?_,
    fun c => ?_, fun id _ w => lutLookup_reset id w, rfl, rfl⟩
  · rw [chan_resetInput]
    have h := units_getD_replicate hi
    exact ⟨h, h, h, h⟩
  · rw [chan_resetInput]
    have h := lines_getD_replicate hn
    exact ⟨h, h, h, h, h⟩
  · rw [chan_resetInput]
    exact ⟨rfl, rfl⟩

end Sys2Proof.Proofs.HostWrites
end

section
/-! Every command as a rule and what an error leaves unspecified: the one case analysis of a command's end, and what every
rule keeps (R240, R272, R276). -/

namespace Sys2Proof.Proofs.Commands

open Sys2Proof.Machine Sys2Proof.Claims

variable {s t u : State} {c d : Chan} {i : Instr}

/-- The rule of a command. -/
def ruleOf : Instr → State → Except Raise State
  | .nop => .ok
  | .init => fun s => .ok (initTables s)
  | .decodeFrame => decodeFrameRule
  | .brPeek n => brPeekRule n
  | .brRead n => brReadRule n
  | .brReadSigned n => brReadSignedRule n
  | .brReadOb n => brReadRule n
  | .brAlign => brAlignRule
  | .huffDecode t => huffDecodeRule t
  | .parseHeader => parseHeaderRule
  | .parseBand => parseBandRule
  | .parseGradient => parseGradientRule
  | .gradientBuild => gradientBuildRule
  | .pmaskBuild c => pmaskBuildRule c
  | .precisionCalc c => precisionCalcRule c
  | .sfDecode c l => sfDecodeRule c l
  | .specDecode c => specDecodeRule c
  | .specFineDecode c => specFineDecodeRule c
  | .dequant c => dequantRule c
  | .scale c => scaleRule c
  | .imdct c => imdctRule c
  | .pcmOut => pcmOutRule

/-- What an error of a command leaves unspecified. `NOP` and `INIT` raise none. -/
def unspecOf : Instr → Raise → State → State
  | .nop => fun _ s => s
  | .init => fun _ s => s
  | .decodeFrame => unspecFrame
  | .brPeek _ => unspecPeek
  | .brRead _ => unspecResult
  | .brReadSigned _ => unspecResult
  | .brReadOb _ => unspecResult
  | .brAlign => unspecAlign
  | .huffDecode _ => unspecResult
  | .parseHeader => unspecHeader
  | .parseBand => unspecBand
  | .parseGradient => unspecGradientFields
  | .gradientBuild => unspecGradient
  | .pmaskBuild c => unspecPmask c
  | .precisionCalc c => unspecPrecision c
  | .sfDecode c _ => unspecSf c
  | .specDecode c => unspecSpec c
  | .specFineDecode c => unspecFine c
  | .dequant c => unspecDequant c
  | .scale c => unspecScale c
  | .imdct _ => unspecImdct
  | .pcmOut => unspecPcm

/-- The operands that `exec` itself refuses as an illegal command (R83). -/
def operandsOk : Instr → Bool
  | .huffDecode t => tableFieldOk t
  | .sfDecode c l => channelFieldsOk c l
  | _ => true

theorem operandsOk_of_wellFormed (h : i.wellFormed = true) : operandsOk i = true := by
  cases i with
  | huffDecode t => exact h
  | sfDecode c l => exact h
  | _ => rfl

/-- A command other than `NOP` and `INIT` is `runCommand` of its rule. -/
theorem exec_eq_runCommand (hn : i ≠ .nop) (hi : i ≠ .init) (ho : operandsOk i = true) :
    exec i s = runCommand (unspecOf i) (ruleOf i) s := by
  cases i with
  | nop => exact absurd rfl hn
  | init => exact absurd rfl hi
  | huffDecode t => exact if_pos ho
  | sfDecode c l => exact if_pos ho
  | _ => rfl

theorem exec_illegal (ho : operandsOk i = false) : exec i s = .next s.raiseIllegal := by
  cases i with
  | huffDecode t => exact if_neg (Bool.eq_false_iff.mp ho)
  | sfDecode c l => exact if_neg (Bool.eq_false_iff.mp ho)
  | _ => cases ho

/-- How a command ends: its rule succeeds, its rule raises, it runs before `INIT`, or its operands have no word. -/
theorem exec_cases (h : exec i s = .next t) :
    (∃ u, ruleOf i s = .ok u ∧ t = u.complete) ∨
    (∃ e, ruleOf i s = .error e ∧ t = s.fail (unspecOf i) e) ∨
    (i ≠ .nop ∧ i ≠ .init ∧ t = s.fail (unspecOf i) (s.raiseHere .notInit)) ∨
    (operandsOk i = false ∧ t = s.raiseIllegal) := by
  by_cases hn : i = .nop
  · subst hn
    cases h
    exact .inl ⟨s, rfl, rfl⟩
  by_cases hi : i = .init
  · subst hi
    cases h
    exact .inl ⟨initTables s, rfl, rfl⟩
  cases ho : operandsOk i with
  | false =>
    rw [exec_illegal ho] at h
    cases h
    exact .inr (.inr (.inr ⟨rfl, rfl⟩))
  | true =>
    rw [exec_eq_runCommand hn hi ho] at h
    obtain ⟨u, -, hu, rfl⟩ | ⟨e, -, he, rfl⟩ | ⟨-, rfl⟩ := runCommand_cases h
    · exact .inl ⟨u, hu, rfl⟩
    · exact .inr (.inl ⟨e, he, rfl⟩)
    · exact .inr (.inr (.inl ⟨hn, hi, rfl⟩))

/-- A command whose rule succeeds. -/
theorem exec_ok (hs : s.status.initDone = true) (ho : operandsOk i = true) (h : ruleOf i s = .ok u) :
    exec i s = .next u.complete := by
  by_cases hn : i = .nop
  · subst hn
    cases h
    rfl
  by_cases hi : i = .init
  · subst hi
    cases h
    rfl
  exact (exec_eq_runCommand hn hi ho).trans (runCommand_ok hs h)

/-- A command whose rule raises. -/
theorem exec_error {e : Raise} (hs : s.status.initDone = true) (ho : operandsOk i = true) (h : ruleOf i s = .error e) :
    exec i s = .next (s.fail (unspecOf i) e) := by
  have hn : i ≠ .nop := by rintro rfl; cases h
  have hi : i ≠ .init := by rintro rfl; cases h
  exact (exec_eq_runCommand hn hi ho).trans (runCommand_error hs h)

/-! ### What every rule and every error keeps -/

theorem rule_keeps (hi : i ≠ .init) (h : ruleOf i s = .ok u) : Keeps s u := by
  cases i with
  | nop => cases h; exact keeps_refl s
  | init => exact absurd rfl hi
  | decodeFrame => exact keeps_decodeFrameRule h
  | brPeek n => obtain ⟨-, rfl⟩ := brPeekRule_shape h; exact kept_fields rfl
  | brRead n => obtain ⟨-, rfl⟩ := brReadRule_shape h; exact kept_fields rfl
  | brReadSigned n => obtain ⟨-, rfl⟩ := brReadSignedRule_shape h; exact kept_fields rfl
  | brReadOb n => obtain ⟨-, rfl⟩ := brReadRule_shape h; exact kept_fields rfl
  | brAlign => exact keeps_brAlignRule h
  | huffDecode k => obtain ⟨_, _, rfl⟩ := huffDecodeRule_shape h; exact kept_fields rfl
  | parseHeader => exact keeps_parseHeaderRule h
  | parseBand => obtain ⟨_, _, _, -, rfl⟩ := parseBandRule_shape h; exact kept_fields rfl
  | parseGradient => obtain ⟨_, _, _, rfl⟩ := parseGradientRule_shape h; exact kept_fields rfl
  | gradientBuild => exact keeps_gradientBuildRule h
  | pmaskBuild c => obtain ⟨-, rfl⟩ := pmaskBuildRule_shape h; exact keeps_setChan s c _
  | precisionCalc c => obtain ⟨_, _, rfl⟩ := precisionCalcRule_shape h; exact keeps_setChan s c _
  | sfDecode c l =>
    obtain ⟨_, _, _, rfl⟩ := sfDecodeRule_shape h
    exact (keeps_setChan s c _).trans (keeps_setBrPos _ _)
  | specDecode c =>
    obtain ⟨_, _, rfl⟩ := specDecodeRule_shape h
    exact (keeps_setChan s c _).trans (keeps_setBrPos _ _)
  | specFineDecode c =>
    obtain ⟨_, _, rfl⟩ := specFineDecodeRule_shape h
    exact (keeps_setChan s c _).trans (keeps_setBrPos _ _)
  | dequant c => obtain ⟨_, rfl⟩ := dequantRule_shape h; exact keeps_setChan s c _
  | scale c => obtain ⟨_, rfl⟩ := scaleRule_shape h; exact keeps_setChan s c _
  | imdct c => obtain ⟨_, _, rfl⟩ := imdctRule_shape h; exact keeps_setChan s c _
  | pcmOut => exact keeps_pcmOutRule h (length_pcmData s)

theorem unspec_keeps (i : Instr) (e : Raise) (s : State) : Keeps s (unspecOf i e s) := by
  cases i with
  | nop | init | imdct _ | pcmOut => exact keeps_refl s
  | decodeFrame => exact keeps_unspecFrame e s
  | brPeek _ => exact keeps_unspecPeek e s
  | brRead _ | brReadSigned _ | brReadOb _ | huffDecode _ => exact keeps_unspecResult e s
  | brAlign => exact keeps_unspecAlign e s
  | parseHeader => exact keeps_unspecHeader e s
  | parseBand => exact kept_fields (t := unspecBand e s) rfl
  | parseGradient => exact kept_fields (t := unspecGradientFields e s) rfl
  | gradientBuild => exact keeps_unspecGradient e s
  | pmaskBuild c | precisionCalc c | dequant c | scale c => exact keeps_setChan s c _
  | sfDecode c _ | specDecode c | specFineDecode c => exact (keeps_setChan s c _).trans (kept_fields rfl)

/-- A command whose rule raises reports the error (R271, R272). -/
theorem exec_reports {e : Raise} (hs : s.status.initDone = true) (ho : operandsOk i = true)
    (h : ruleOf i s = .error e) :
    ∃ t, exec i s = .next t ∧ reports s t e.err.code e.pos ∧ t.brPos = (unspecOf i e s).brPos :=
  ⟨_, exec_error hs ho h, Common.reports_fail (unspec_keeps i e s), rfl⟩

/-- A command that moves the cursor leaves it, after an error of the bit reader, where the failing read began (R112, R133). -/
def movesCursor (i : Instr) : Prop :=
  ∀ (s : State) (e : Raise), e.err.ofReader = true → (unspecOf i e s).brPos = s.cursorAfter e

theorem exec_reports_reader {e : Raise} (hs : s.status.initDone = true) (ho : operandsOk i = true)
    (hm : movesCursor i) (h : ruleOf i s = .error e) (he : e.err.ofReader = true) (hc : e.cursor < 2 ^ 32) :
    ∃ t, exec i s = .next t ∧ reports s t e.err.code e.pos ∧ cursor t = e.cursor := by
  obtain ⟨t, ht, hrep, hpos⟩ := exec_reports hs ho h
  refine ⟨t, ht, hrep, ?_⟩
  rw [cursor, hpos, hm s e he, cursorAfter_reader he, Word.ofNat, BitVec.toNat_ofNat, Nat.mod_eq_of_lt hc]

/-! ### The overlap buffers (R49, R259) -/

theorem prev_setChan {x : Channel} (hx : x.prev = (s.chan c).prev) (d : Chan) :
    ((s.setChan c x).chan d).prev = (s.chan d).prev := by
  by_cases h : d = c
  · subst h
    rw [setChan_chan_same, hx]
  · rw [setChan_chan_other _ _ _ _ h]

theorem rule_prev (hf : i ≠ .decodeFrame) (hm : i ≠ .imdct d) (h : ruleOf i s = .ok u) :
    (u.chan d).prev = (s.chan d).prev := by
  cases i with
  | nop | init => cases h; cases d <;> rfl
  | decodeFrame => exact absurd rfl hf
  | brPeek n => obtain ⟨-, rfl⟩ := brPeekRule_shape h; cases d <;> rfl
  | brRead n => obtain ⟨-, rfl⟩ := brReadRule_shape h; cases d <;> rfl
  | brReadSigned n => obtain ⟨-, rfl⟩ := brReadSignedRule_shape h; cases d <;> rfl
  | brReadOb n => obtain ⟨-, rfl⟩ := brReadRule_shape h; cases d <;> rfl
  | brAlign => obtain ⟨_, _, rfl⟩ := brAlignRule_shape h; cases d <;> rfl
  | huffDecode k => obtain ⟨_, _, rfl⟩ := huffDecodeRule_shape h; cases d <;> rfl
  | parseHeader => obtain ⟨_, _, _, _, _, _, _, -, -, -, rfl⟩ := parseHeaderRule_shape h; cases d <;> rfl
  | parseBand => obtain ⟨_, _, _, -, rfl⟩ := parseBandRule_shape h; cases d <;> rfl
  | parseGradient => obtain ⟨_, _, _, rfl⟩ := parseGradientRule_shape h; cases d <;> rfl
  | gradientBuild => obtain ⟨_, rfl⟩ := gradientBuildRule_shape h; cases d <;> rfl
  | pmaskBuild c => obtain ⟨-, rfl⟩ := pmaskBuildRule_shape h; refine prev_setChan ?_ d; rfl
  | precisionCalc c => obtain ⟨_, _, rfl⟩ := precisionCalcRule_shape h; refine prev_setChan ?_ d; rfl
  | sfDecode c l => obtain ⟨_, _, _, rfl⟩ := sfDecodeRule_shape h; refine prev_setChan (c := c) ?_ d; rfl
  | specDecode c => obtain ⟨_, _, rfl⟩ := specDecodeRule_shape h; refine prev_setChan (c := c) ?_ d; rfl
  | specFineDecode c => obtain ⟨_, _, rfl⟩ := specFineDecodeRule_shape h; refine prev_setChan (c := c) ?_ d; rfl
  | dequant c => obtain ⟨_, rfl⟩ := dequantRule_shape h; refine prev_setChan ?_ d; rfl
  | scale c => obtain ⟨_, rfl⟩ := scaleRule_shape h; refine prev_setChan ?_ d; rfl
  | imdct c =>
    obtain ⟨_, _, rfl⟩ := imdctRule_shape h
    rw [setChan_chan_other _ _ _ _ (fun hd => hm (congrArg _ hd.symm))]
  | pcmOut => obtain ⟨-, -, -, rfl⟩ := pcmOutRule_shape h; cases d <;> rfl

theorem unspecFrame_prev (e : Raise) (s : State) (d : Chan) : ((unspecFrame e s).chan d).prev = (s.chan d).prev := by
  unfold unspecFrame
  split <;> cases d <;> simp only [chan_c0, chan_c1, freeFrameChannel]

/-- No error touches an overlap buffer. -/
theorem unspec_prev (i : Instr) (e : Raise) (s : State) (d : Chan) : ((unspecOf i e s).chan d).prev = (s.chan d).prev := by
  cases i with
  | nop | init | imdct _ | pcmOut => rfl
  | decodeFrame => exact unspecFrame_prev e s d
  | parseHeader =>
    simp only [unspecOf, unspecHeader]
    split
    · rfl
    · cases d <;> simp only [chan_c0, chan_c1, freeHeader]
  | brPeek _ | brRead _ | brReadSigned _ | brReadOb _ | brAlign | huffDecode _ | parseBand | parseGradient
  | gradientBuild =>
    cases d <;> simp only [unspecOf, unspecPeek, unspecResult, unspecAlign, unspecBand, unspecGradientFields,
      unspecGradient, chan_c0, chan_c1]
  | pmaskBuild c | precisionCalc c | sfDecode c _ | specDecode c | specFineDecode c | dequant c | scale c =>
    cases c <;> cases d <;> simp only [unspecOf, unspecPmask, unspecPrecision, unspecSf, unspecSpec, unspecFine,
      unspecDequant, unspecScale, State.setChan, chan_c0, chan_c1]

/-- The overlap buffer of a channel changes only by its `IMDCT` and by a frame, and not when they raise (R226, R259). -/
theorem exec_prev (h : exec i s = .next t) (hd : (t.chan d).prev ≠ (s.chan d).prev) :
    i = .imdct d ∨ i = .decodeFrame ∧ ∃ u, decodeFrameRule s = .ok u ∧ t = u.complete := by
  have hfail (e : Raise) : ((s.fail (unspecOf i) e).chan d).prev = (s.chan d).prev :=
    (show _ = ((unspecOf i e s).chan d).prev by cases d <;> rfl).trans (unspec_prev i e s d)
  obtain ⟨u, hu, rfl⟩ | ⟨e, -, rfl⟩ | ⟨-, -, rfl⟩ | ⟨-, rfl⟩ := exec_cases h
  · by_cases hm : i = .imdct d
    · exact .inl hm
    · by_cases hf : i = .decodeFrame
      · subst hf
        exact .inr ⟨rfl, u, hu, rfl⟩
      · exact absurd ((show _ = (u.chan d).prev by cases d <;> rfl).trans (rule_prev hf hm hu)) hd
  · exact absurd (hfail e) hd
  · exact absurd (hfail _) hd
  · exact absurd (by cases d <;> rfl) hd

/-- Only `INIT` writes the lookup tables (R53, R242). -/
theorem exec_hlut (hi : i ≠ .init) (h : exec i s = .next t) : t.hlut = s.hlut := by
  obtain ⟨u, hu, rfl⟩ | ⟨e, -, rfl⟩ | ⟨-, -, rfl⟩ | ⟨-, rfl⟩ := exec_cases h
  · exact (rule_keeps hi hu).kept.hlut
  · exact (unspec_keeps i e s).kept.hlut
  · exact (unspec_keeps i _ s).kept.hlut
  · rfl

end Sys2Proof.Proofs.Commands
end

section
/-! Acceptance of commands, how a command ends, and the interrupt (R20, R23, R25, R240, R270 to R280). -/

namespace Sys2Proof.Proofs.Acceptance

open Sys2Proof.Machine Sys2Proof.Claims Sys2Proof.Proofs.Common Sys2Proof.Proofs.FatalLatch Sys2Proof.Proofs.HostBus

variable {s t : State} {w : Word} {rest : List HostAction}

/-! ### A write to `CMD` (R23, R240) -/

/-- The next step submits the word that the host writes to `CMD`. -/
theorem step_writesCmd (h : writesCmd s w rest) : step s = submit w { s with hostQueue := rest } :=
  (step_of_hostQueue h).trans (act_writeCmd _ w)

theorem submit_of_ready (hb : s.status.busy = false) (hf : s.status.fatal = false) :
    submit w s = runWord w (s.accept w) := by
  simp [submit, State.ready, hb, hf]

/-- An idle block that is not fatal runs the word on the accepted state. -/
theorem step_accepts (h : writesCmd s w rest) (hb : s.status.busy = false) (hf : s.status.fatal = false) :
    step s = runWord w (accepted s w rest) :=
  (step_writesCmd h).trans (submit_of_ready (s := { s with hostQueue := rest }) hb hf)

/-- Settles O4: acceptance runs what the decoder answers. -/
theorem stepRunsTheDecodedCommand : Obligations.StepRunsTheDecodedCommand := by
  intro s w rest i hw hb hf hd
  rw [step_accepts hw hb hf, runWord, hd]

/-- Settles O5: `ILLEGAL_CMD` is raised on the accepted state, at the cursor. -/
theorem anIllegalWordReportsIllegalCmd : Obligations.AnIllegalWordReportsIllegalCmd := by
  intro s w rest hw hb hf hd
  have hpos : Word.ofNat s.brPos.toNat = s.brPos := by rw [Word.ofNat, BitVec.ofNat_toNat, BitVec.setWidth_eq]
  have hraise : (accepted s w rest).raiseIllegal = { s with
      hostQueue := rest
      cmdLast := w
      status := { s.status with done := true, err := true, errCode := 8, fatal := s.status.fatal || true, busy := false }
      errPos := Word.ofNat s.brPos.toNat
      errCmd := w } := rfl
  rw [step_accepts hw hb hf, runWord, hd, hraise, hpos, Bool.or_true]

/-- Settles O6: without a pending action nothing happens, and only a ready block accepts. -/
theorem theBlockActsOnAcceptedCommandsOnly : Obligations.TheBlockActsOnAcceptedCommandsOnly := by
  refine ⟨fun s hq => by simp [step, hq], fun s w rest hw => ⟨fun hb hf => ?_, fun hb => ?_⟩⟩
  · rw [step_writesCmd hw]
    exact submit_of_fatal_idle (s := { s with hostQueue := rest }) hf hb
  · rw [step_writesCmd hw]
    simp [submit, State.ready, hb]

/-- Settles O18: `NOP` is the end of a command and nothing else. -/
theorem nopOnlyEnds : Obligations.NopOnlyEnds := fun _ => rfl

/-! ### The end of a command (R240, R270 to R272) -/

/-- Settles O9: a command completes or raises one error. -/
theorem everyCommandEndsInOneOfTwoWays : Obligations.EveryCommandEndsInOneOfTwoWays := by
  intro i s
  obtain ⟨t, ht⟩ := exec_next i s
  refine ⟨t, ht, ?_⟩
  obtain ⟨hst, hpos, hcmd⟩ | ⟨hst, -, hpos, hcmd⟩ | ⟨e, hst, hcmd⟩ := (exec_ends ht).status
  · rw [hst]
    exact ⟨rfl, rfl, .inl ⟨rfl, rfl, rfl, hpos, hcmd⟩⟩
  · rw [hst]
    exact ⟨rfl, rfl, .inl ⟨rfl, rfl, rfl, hpos, hcmd⟩⟩
  · rw [hst]
    obtain ⟨hlow, hhigh⟩ := code_range e
    refine ⟨rfl, rfl, .inr ⟨rfl, hlow, hhigh, hcmd, ?_, rfl⟩⟩
    rw [status_raise_fatal, fatal_eq_code_ne, status_raise_errCode]

/-! ### The interrupt (R280) -/

theorem irq_of_done (hd : t.status.done = true) : t.irq = t.ctrl.irqEn := by
  simp [State.irq, hd]

theorem irq_after_command {i : Instr} (h : exec i s = .next t) : t.irq = s.ctrl.irqEn := by
  have hends := exec_ends h
  rw [← hends.ctrl]
  refine irq_of_done ?_
  obtain ⟨hst, -⟩ | ⟨hst, -⟩ | ⟨e, hst, -⟩ := hends.status <;> rw [hst] <;> rfl

/-- Settles O11: every command ends done, and the host clears `DONE`, `ERR` while it is not fatal, and `IRQ_EN`. -/
theorem theInterruptFollowsDoneAndErr : Obligations.TheInterruptFollowsDoneAndErr := by
  refine ⟨fun i s t h => irq_after_command h, fun s rest hb hq => ?_, fun s w rest hb hw hq => ?_⟩
  · refine ⟨_, step_write_reg (o := 0x008) hq hb (by decide) rfl (by decide) (r := .status) rfl, ?_⟩
    simp [State.irq, State.writeReg, Status.hostWrite, Bool.and_assoc]
  · refine ⟨_, step_write_reg (o := 0x004) hq hb (by decide) rfl (by decide) (r := .ctrl) rfl, ?_⟩
    have hctrl : (Ctrl.ofWord w).irqEn = false := hw
    simp [State.irq, State.writeReg, hctrl]

/-! ### What a step leaves alone (R49, R55, R61, R74) -/

@[simp] theorem writeReg_cfg (s : State) (w : Word) (r : HostReg) : (s.writeReg w r).cfg = s.cfg := by
  cases r <;> simp [State.writeReg]

@[simp] theorem writeReg_hlut (s : State) (w : Word) (r : HostReg) : (s.writeReg w r).hlut = s.hlut := by
  cases r <;> simp [State.writeReg]

theorem writeSpace_cfg_hlut (s : State) (width : AccessWidth) (w : Word) (sp : HostSpace) :
    (s.writeSpace width w sp).cfg = s.cfg ∧ (s.writeSpace width w sp).hlut = s.hlut := by
  cases sp with
  | reg r => exact ⟨writeReg_cfg s w r, writeReg_hlut s w r⟩
  | ram m a => cases m <;> exact ⟨rfl, rfl⟩
  | _ => exact ⟨rfl, rfl⟩

theorem writeReg_prev (s : State) (w : Word) (r : HostReg) (d : Chan) :
    ((s.writeReg w r).chan d).prev = (s.chan d).prev := by
  cases r with
  | sf c | prec c | precf c | pmask c | qspec c | qspecf c | spec c | pcm c | sfcfg c | mbits c =>
    refine Commands.prev_setChan (c := c) ?_ d; rfl
  | _ => cases d <;> rfl

theorem writeSpace_prev (s : State) (width : AccessWidth) (w : Word) (sp : HostSpace) (d : Chan) :
    ((s.writeSpace width w sp).chan d).prev = (s.chan d).prev := by
  cases sp with
  | reg r => exact writeReg_prev s w r d
  | ram m a => cases m <;> cases d <;> rfl
  | _ => rfl

/-- What a step that is not a command changes: neither the configuration, nor, but for reset, the lookup tables and the
overlap buffers. A command was accepted on an idle block that is not fatal. -/
theorem step_cases (h : step s = .next t) :
    (∃ w rest i, writesCmd s w rest ∧ s.status.busy = false ∧ s.status.fatal = false ∧ decodeWord w = some i ∧
      exec i (accepted s w rest) = .next t) ∨
    (∃ rest, s.hostQueue = .reset :: rest ∧ t.cfg = s.cfg) ∨
    (t.cfg = s.cfg ∧ t.hlut = s.hlut ∧ ∀ c, (t.chan c).prev = (s.chan c).prev) := by
  obtain ⟨-, rfl⟩ | ⟨a, rest, hq, ha⟩ := step_next h
  · exact .inr (.inr ⟨rfl, rfl, fun _ => rfl⟩)
  obtain ⟨w, i, rfl, hr, hd, hx⟩ | ⟨w, rfl, -, -, rfl⟩ | ⟨-, rfl⟩ | ⟨width, o, w, rfl, -, -, rfl⟩ | ⟨d, k, rfl⟩ |
    ⟨rfl, rfl⟩ := act_next ha
  · have hready : s.status.busy = false ∧ s.status.fatal = false := by simpa [State.ready] using hr
    exact .inl ⟨w, rest, i, hq, hready.1, hready.2, hd, hx⟩
  · exact .inr (.inr ⟨rfl, rfl, fun c => by cases c <;> rfl⟩)
  · exact .inr (.inr ⟨rfl, rfl, fun c => by cases c <;> rfl⟩)
  · obtain ⟨hcfg, hlut⟩ := writeSpace_cfg_hlut { s with hostQueue := rest } width w (spaceAt o.toNat)
    exact .inr (.inr ⟨hcfg, hlut, fun c => (writeSpace_prev _ width w _ c).trans (by cases c <;> rfl)⟩)
  · exact .inr (.inr ⟨rfl, rfl, fun c => by cases c <;> rfl⟩)
  · exact .inr (.inl ⟨rest, hq, rfl⟩)

/-- Settles O57: a command keeps the configuration, and only `INIT` and reset write the lookup tables. -/
theorem romsAndLookupTablesAreReadOnly : Obligations.RomsAndLookupTablesAreReadOnly := by
  intro s t h
  obtain ⟨w, rest, i, hw, hb, hf, hd, hx⟩ | ⟨rest, hq, hcfg⟩ | ⟨hcfg, hlut, -⟩ := step_cases h
  · refine ⟨(exec_ends hx).cfg, fun hne => ⟨rest, .inr ⟨?_, hb, hf⟩⟩⟩
    by_cases hi : i = .init
    · subst hi
      rwa [← (Encoding.decodingAndEncodingAreInverse.2 w .init hd).2] at hw
    · exact absurd (Commands.exec_hlut hi hx) hne
  · exact ⟨hcfg, fun _ => ⟨rest, .inl hq⟩⟩
  · exact ⟨hcfg, fun hne => absurd hlut hne⟩

/-- Settles O48: only `IMDCT` and a frame without an error write an overlap buffer, and reset clears it. -/
theorem overlapChangesOnlyByImdctFrameOrReset : Obligations.OverlapChangesOnlyByImdctFrameOrReset := by
  intro s t c h hne
  obtain ⟨w, rest, i, hw, hb, hf, hd, hx⟩ | ⟨rest, hq, -⟩ | ⟨-, -, hprev⟩ := step_cases h
  · refine ⟨rest, .inr ⟨w, hw, hb, hf, ?_⟩⟩
    have hne' : (t.chan c).prev ≠ ((accepted s w rest).chan c).prev := by cases c <;> exact hne
    obtain rfl | ⟨rfl, u, hu, rfl⟩ := Commands.exec_prev hx hne'
    · exact .inl hd
    · have hst := (keeps_decodeFrameRule hu).kept.status
      exact .inr ⟨hd, by rw [complete_status, hst]; rfl⟩
  · exact ⟨rest, .inl hq⟩
  · exact absurd (hprev c) hne

end Sys2Proof.Proofs.Acceptance
end

section
/-! The bounds that well-formedness puts on the parameters (R6, R55, R130, R190, log 7), as propositions. -/

namespace Sys2Proof.Proofs.Parameters

open Sys2Proof.Machine Sys2Proof.Claims

/-- What the proofs need of the header, band, gradient and scale-factor parameters. -/
structure FieldBounds (c : Config) : Prop where
  srid : c.sridBits ≤ 8
  ccid : c.ccidBits ≤ 8
  flen : c.flenBits ≤ 16
  fstat : c.fstatBits ≤ 8
  flenFits : 2 ^ c.flenBits - 1 + c.flenOffset < 2 ^ 16
  band : c.bandBits ≤ 32
  bandFlag : c.bandFlagBits ≤ 32
  nquEntry : ∀ q ∈ c.nquRom, q ≤ 34
  nquLength : c.nquRom.length ≤ 256
  gsu0 : c.gsu0Bits ≤ 8
  geu0Fits : 2 ^ c.geu0Bits - 1 + c.geu0Offset < 2 ^ 8
  gsv : c.gsvBits ≤ 8
  gev : c.gevBits ≤ 8
  gsu1 : c.gsu1Bits ≤ 8
  gbnd : c.gbndBits ≤ 8
  endUnit : c.gradM1EndUnit < 2 ^ 8
  sfOffset : c.sfOffsetBits ≤ 8
  sfBBaseLow : 2 ≤ c.sfBBase
  sfBBaseHigh : c.sfBBase + 3 < 2 ^ 4

theorem fieldBounds (c : ValidConfig) : FieldBounds c.rom := by
  have hwf := c.ok
  simp only [Config.wf, Config.headerOk, Config.bandOk, Config.scaleFactorOk, Bool.and_eq_true, decide_eq_true_eq,
    List.all_eq_true] at hwf
  obtain ⟨⟨⟨⟨⟨hheader, hband⟩, hfactor⟩, -⟩, -⟩, -⟩ := hwf
  obtain ⟨⟨⟨⟨⟨⟨⟨⟨⟨⟨⟨-, hsrid⟩, hccid⟩, hflen⟩, hfstat⟩, hfits⟩, -⟩, -⟩, -⟩, -⟩, -⟩, -⟩ := hheader
  obtain ⟨⟨⟨⟨⟨⟨⟨⟨⟨⟨⟨⟨hb, hflag⟩, hentry⟩, hlength⟩, hgsu0⟩, hgeu0⟩, hgsv⟩, hgev⟩, hgsu1⟩, hgbnd⟩, hend⟩, -⟩, -⟩ := hband
  obtain ⟨⟨⟨⟨hoff, hlow⟩, hhigh⟩, -⟩, -⟩ := hfactor
  exact ⟨hsrid, hccid, hflen, hfstat, hfits, hb, hflag, hentry, hlength, hgsu0, hgeu0, hgsv, hgev, hgsu1, hgbnd, hend,
    hoff, hlow, hhigh⟩

/-- The same for the configuration of a state. -/
theorem romBounds (s : State) : FieldBounds s.rom := fieldBounds s.cfg

theorem FieldBounds.geu0 {c : Config} (h : FieldBounds c) : c.geu0Bits ≤ 8 := by
  by_contra hlt
  have : 2 ^ 9 ≤ 2 ^ c.geu0Bits := Nat.pow_le_pow_right (by norm_num) (by omega)
  have := h.geu0Fits
  omega

end Sys2Proof.Proofs.Parameters
end

section
/-! Which errors each rule can raise (R270): one lemma per operation, from the bit reader up to the frame. -/

namespace Sys2Proof.Proofs.Errors

open Sys2Proof.Machine Sys2Proof.Claims Sys2Proof.Proofs.Huffman Sys2Proof.Proofs.Parameters Sys2Proof.Proofs.Commands

variable {α β : Type} {s t : State} {c : Chan} {es es' : List ErrCode}

/-- Every error that `x` can raise is one of `es`. -/
def RaisesIn (es : List ErrCode) (x : Except Raise α) : Prop := ∀ e, x = .error e → e.err ∈ es

theorem raisesIn_ok (a : α) : RaisesIn es (.ok a : Except Raise α) := fun _ h => by cases h

theorem raisesIn_error {e : Raise} (h : e.err ∈ es) : RaisesIn es (.error e : Except Raise α) :=
  fun _ h' => by cases h'; exact h

theorem RaisesIn.bind_of_ok {x : Except Raise α} {f : α → Except Raise β} (hx : RaisesIn es x)
    (hf : ∀ a, x = .ok a → RaisesIn es (f a)) : RaisesIn es (x >>= f) := by
  intro e h
  obtain h | ⟨a, ha, h⟩ := bind_error.mp h
  · exact hx e h
  · exact hf a ha e h

theorem RaisesIn.bind {x : Except Raise α} {f : α → Except Raise β} (hx : RaisesIn es x)
    (hf : ∀ a, RaisesIn es (f a)) : RaisesIn es (x >>= f) := hx.bind_of_ok fun a _ => hf a

theorem RaisesIn.mono {x : Except Raise α} (hx : RaisesIn es x) (h : es ⊆ es') : RaisesIn es' x :=
  fun e he => h (hx e he)

/-! ### The bit reader and the codebooks (R110 to R114, R133) -/

theorem peek_raises (s : State) (pos n : Nat) : RaisesIn [.badWidth, .overrun] (s.peek pos n) := by
  unfold State.peek
  split
  · exact raisesIn_error (by simp [raiseAt])
  · exact fun e h => by simp [(peekBits_error h).1]

/-- A width that the reader takes leaves `OVERRUN` alone. -/
theorem peek_overruns {n : Nat} (hn : n ≤ 32) (pos : Nat) : RaisesIn [.overrun] (s.peek pos n) := by
  unfold State.peek
  rw [if_neg (by omega)]
  exact fun e h => by simp [(peekBits_error h).1]

theorem read_raises (s : State) (pos n : Nat) : RaisesIn [.badWidth, .overrun] (s.read pos n) :=
  (peek_raises s pos n).bind fun _ => raisesIn_ok _

theorem readSigned_raises (s : State) (pos n : Nat) : RaisesIn [.badWidth, .overrun] (s.readSigned pos n) :=
  (read_raises s pos n).bind fun _ => raisesIn_ok _

theorem read_overruns {n : Nat} (hn : n ≤ 32) (pos : Nat) : RaisesIn [.overrun] (s.read pos n) :=
  (peek_overruns hn pos).bind fun _ => raisesIn_ok _

theorem readMany_overruns {w : Nat} (hw : w ≤ 32) (k pos : Nat) : RaisesIn [.overrun] (s.readMany w k pos) := by
  induction k generalizing pos with
  | zero => exact raisesIn_ok _
  | succ k ih => exact (read_overruns hw pos).bind fun r => (ih r.2).bind fun _ => raisesIn_ok _

theorem readManySigned_overruns {w : Nat} (hw : w ≤ 32) (k pos : Nat) :
    RaisesIn [.overrun] (s.readManySigned w k pos) := by
  induction k generalizing pos with
  | zero => exact raisesIn_ok _
  | succ k ih =>
    exact ((read_overruns hw pos).bind fun _ => raisesIn_ok _).bind fun r => (ih r.2).bind fun _ => raisesIn_ok _

/-- No codebook has a window above 32 bits; an identifier above 12 has an empty one. -/
theorem maxb_le (s : State) (id : Nat) : (s.rom.huff id).maxb ≤ 32 := by
  by_cases h : id ≤ 12
  · exact (wellFormedCodebook_huff s.cfg h).maxb_le
  · have hwf := s.cfg.ok
    simp only [Config.wf, Config.huffOk, Bool.and_eq_true, beq_iff_eq] at hwf
    obtain ⟨⟨⟨-, hlen, -⟩, -⟩, -⟩ := hwf
    change s.rom.huffRom.length = 13 at hlen
    rw [Config.huff, List.getD_eq_default _ _ (by omega)]
    exact Nat.zero_le _

theorem huffAt_raises (s : State) (pos id : Nat) :
    RaisesIn [.badTable, .huffInvalid, .overrun] (s.huffAt pos id) := by
  unfold State.huffAt
  split
  · exact raisesIn_error (by simp [raiseAt])
  · refine ((peek_overruns (maxb_le s id) pos).mono (by simp)).bind fun w => ?_
    split
    · exact raisesIn_error (by simp [raiseAt])
    · exact raisesIn_ok _

theorem alignPos_raises (m pos : Nat) : RaisesIn [.badWidth] (alignPos m pos) := by
  unfold alignPos
  split
  · exact raisesIn_error (by simp [raiseAt])
  · exact raisesIn_ok _

theorem checkNqu_raises (s : State) : RaisesIn [.indexRange] s.checkNqu := by
  unfold State.checkNqu
  split
  · exact raisesIn_error (by simp [State.raiseHere, raiseAt])
  · exact raisesIn_ok _

theorem brAlignRule_raises (s : State) : RaisesIn [.badWidth] (brAlignRule s) := by
  unfold brAlignRule
  split
  · exact raisesIn_error (by simp [State.raiseHere, raiseAt])
  · exact (alignPos_raises _ _).bind fun _ => raisesIn_ok _

/-! ### Field extraction (R244 to R248) -/

theorem parseHeaderRule_raises (s : State) : RaisesIn [.sync, .indexRange, .overrun] (parseHeaderRule s) := by
  have hb := romBounds s
  have read {n : Nat} (hn : n ≤ 32) (pos : Nat) : RaisesIn [.sync, .indexRange, .overrun] (s.read pos n) :=
    (read_overruns hn pos).mono (by simp)
  refine (read (by decide) _).bind fun sync => ?_
  split
  · exact raisesIn_error (by simp [State.raiseHere, raiseAt])
  · refine (read (hb.srid.trans (by decide)) _).bind fun srid => (read (hb.ccid.trans (by decide)) _).bind fun ccid =>
      (read (hb.flen.trans (by decide)) _).bind fun flen => (read (hb.fstat.trans (by decide)) _).bind fun fstat => ?_
    split
    · exact raisesIn_error (by simp [raiseAt])
    · split
      · exact raisesIn_error (by simp [raiseAt])
      · exact raisesIn_ok _

theorem parseBandRule_raises (s : State) : RaisesIn [.indexRange, .overrun] (parseBandRule s) := by
  have hb := romBounds s
  refine ((read_overruns hb.band _).mono (by simp)).bind fun coded =>
    ((read_overruns hb.bandFlag _).mono (by simp)).bind fun flag => ?_
  split
  · exact raisesIn_error (by simp [raiseAt])
  · exact raisesIn_ok _

theorem gradientFields_overruns (s : State) (gmode pos : Nat) : RaisesIn [.overrun] (s.gradientFields gmode pos) := by
  have hb := romBounds s
  have h8 {n : Nat} (h : n ≤ 8) : n ≤ 32 := h.trans (by decide)
  unfold State.gradientFields
  split
  · exact (read_overruns (h8 hb.gsu0) _).bind fun _ => (read_overruns (h8 hb.geu0) _).bind fun _ =>
      (read_overruns (h8 hb.gsv) _).bind fun _ => (read_overruns (h8 hb.gev) _).bind fun _ => raisesIn_ok _
  · exact (read_overruns (h8 hb.gsu1) _).bind fun _ => (read_overruns (h8 hb.gsv) _).bind fun _ => raisesIn_ok _

theorem parseGradientRule_overruns (s : State) : RaisesIn [.overrun] (parseGradientRule s) :=
  (read_overruns (by decide) _).bind fun _ => (gradientFields_overruns s _ _).bind fun _ =>
    (read_overruns ((romBounds s).gbnd.trans (by decide)) _).bind fun _ => raisesIn_ok _

/-! ### Gradient and precision (R150 to R156) -/

theorem gradientBuildRule_raises (s : State) : RaisesIn [.indexRange] (gradientBuildRule s) := by
  unfold gradientBuildRule
  dsimp only
  split
  · exact raisesIn_error (by simp [State.raiseHere, raiseAt])
  · split
    · split
      · exact raisesIn_error (by simp [State.raiseHere, raiseAt])
      · exact raisesIn_ok _
    · exact raisesIn_ok _

theorem pmaskBuildRule_raises (c : Chan) (s : State) : RaisesIn [.indexRange] (pmaskBuildRule c s) :=
  (checkNqu_raises s).bind fun _ => raisesIn_ok _

theorem precisionCalcRule_raises (c : Chan) (s : State) : RaisesIn [.indexRange] (precisionCalcRule c s) := by
  refine (checkNqu_raises s).bind fun _ => ?_
  split
  · exact raisesIn_error (by simp [State.raiseHere, raiseAt])
  · exact raisesIn_ok _

/-! ### Scale factors (R170 to R174) -/

theorem sfChain_raises (s : State) (bl k : Nat) (prev : Int) (pos : Nat) :
    RaisesIn [.badTable, .huffInvalid, .overrun] (s.sfChain bl k prev pos) := by
  induction k generalizing prev pos with
  | zero => exact raisesIn_ok _
  | succ k ih => exact (huffAt_raises s pos bl).bind fun d => (ih _ _).bind fun _ => raisesIn_ok _

theorem sfDeltas_raises (s : State) (id k i pos : Nat) :
    RaisesIn [.badTable, .huffInvalid, .overrun] (s.sfDeltas id k i pos) := by
  induction k generalizing i pos with
  | zero => exact raisesIn_ok _
  | succ k ih => exact (huffAt_raises s pos id).bind fun d => (ih _ _).bind fun _ => raisesIn_ok _

theorem sfCodedValues_raises {bl : Nat} (hbl : bl ≤ 32) (nqu pos : Nat) :
    RaisesIn [.badTable, .huffInvalid, .overrun] (s.sfCodedValues bl nqu pos) := by
  cases nqu with
  | zero => exact raisesIn_ok _
  | succ k =>
    exact ((read_overruns hbl pos).mono (by simp)).bind fun _ => (sfChain_raises s _ _ _ _).bind fun _ => raisesIn_ok _

/-- A selector of two bits is below 4. -/
theorem selector_lt {pos : Nat} {r : Nat × Nat} (h : s.read pos Config.sfSelBits = .ok r) : r.1 < 4 := by
  obtain ⟨-, rfl⟩ := read_inv h
  exact field_lt s pos 2

theorem sfScheme_raises (s : State) (mode : Nat) (l : LocalCh) (cfg : SfCfg) (pos : Nat) :
    RaisesIn [.badTable, .huffInvalid, .overrun] (s.sfScheme mode l cfg pos) := by
  have read {n : Nat} (hn : n ≤ 32) (pos : Nat) : RaisesIn [.badTable, .huffInvalid, .overrun] (s.read pos n) :=
    (read_overruns hn pos).mono (by simp)
  have hoff := (romBounds s).sfOffset.trans (show 8 ≤ 32 by decide)
  unfold State.sfScheme
  split
  · refine (read (by decide) _).bind_of_ok fun sel hsel => (read hoff _).bind fun off =>
      (read (by decide) _).bind fun wt => ?_
    have hlt := selector_lt hsel
    exact (sfCodedValues_raises (by simp only [Config.sfABase]; omega) _ _).bind fun _ => raisesIn_ok _
  · cases l with
    | l0 =>
      refine (read (by decide) _).bind fun sel => ?_
      dsimp only
      split
      · exact ((readMany_overruns (by decide) _ _).mono (by simp)).bind fun _ => raisesIn_ok _
      next hbl =>
        have hbl' : sel.1 + s.rom.sfBBase ≤ 32 := by simp only [Config.sfBRawThreshold] at hbl; omega
        exact (read hoff _).bind fun off => (read (by decide) _).bind fun wt =>
          ((readMany_overruns hbl' _ _).mono (by simp)).bind fun _ => raisesIn_ok _
    | l1 => exact (read (by decide) _).bind fun sel => (sfDeltas_raises s _ _ _ _).bind fun _ => raisesIn_ok _

theorem sfDecodeRule_raises (c : Chan) (l : LocalCh) (s : State) :
    RaisesIn [.badTable, .huffInvalid, .indexRange, .overrun] (sfDecodeRule c l s) :=
  ((checkNqu_raises s).mono (by simp)).bind fun _ => ((read_overruns (by decide) _).mono (by simp)).bind fun _ =>
    ((sfScheme_raises s _ _ _ _).mono (by simp)).bind fun _ => raisesIn_ok _

/-! ### Spectrum, dequantizer and scaler (R191 to R212) -/

theorem wlRom_le {p : Nat} (hp : p ≤ 15) : wlRom p ≤ 32 := by
  interval_cases p <;> decide

theorem precIndex_raises (p : Int) (pos : Nat) : RaisesIn [.indexRange] (precIndex p pos) := by
  unfold precIndex
  split
  · exact raisesIn_error (by simp [raiseAt])
  · exact raisesIn_ok _

theorem precIndex_le {p : Int} {pos k : Nat} (h : precIndex p pos = .ok k) : k ≤ 15 := by
  unfold precIndex at h
  split at h
  · cases h
  · cases h
    omega

theorem joint2At_raises (s : State) (pos : Nat) : RaisesIn [.jointInvalid, .overrun] (s.joint2At pos) := by
  refine ((read_overruns (by decide) _).mono (by simp)).bind fun k => ?_
  split
  · exact raisesIn_error (by simp [raiseAt])
  · exact raisesIn_ok _

theorem joint4At_raises (s : State) (pos : Nat) : RaisesIn [.jointInvalid, .overrun] (s.joint4At pos) := by
  refine ((read_overruns (by decide) _).mono (by simp)).bind fun k => ?_
  split
  · exact raisesIn_error (by simp [raiseAt])
  · exact raisesIn_ok _

theorem joint4Groups_raises (s : State) (g pos : Nat) : RaisesIn [.jointInvalid, .overrun] (s.joint4Groups g pos) := by
  induction g generalizing pos with
  | zero => exact raisesIn_ok _
  | succ g ih => exact (joint4At_raises s pos).bind fun first => (ih _).bind fun _ => raisesIn_ok _

theorem unitLines_raises {p : Nat} (hp : p ≤ 15) (n pos : Nat) :
    RaisesIn [.jointInvalid, .overrun] (s.unitLines p n pos) := by
  unfold State.unitLines
  split
  · split
    · exact joint2At_raises s pos
    · exact joint4Groups_raises s _ pos
  · exact (readManySigned_overruns (wlRom_le hp) n pos).mono (by simp)

theorem specUnits_raises (s : State) (prec : Units) (is : List Nat) (q : Lines) (pos : Nat) :
    RaisesIn [.jointInvalid, .indexRange, .overrun] (s.specUnits prec is q pos) := by
  induction is generalizing q pos with
  | nil => exact raisesIn_ok _
  | cons i is ih =>
    exact ((precIndex_raises _ _).mono (by simp)).bind_of_ok fun p hp =>
      ((unitLines_raises (precIndex_le hp) _ _).mono (by simp)).bind fun r => ih _ _

theorem specDecodeRule_raises (c : Chan) (s : State) :
    RaisesIn [.jointInvalid, .indexRange, .overrun] (specDecodeRule c s) :=
  ((checkNqu_raises s).mono (by simp)).bind fun _ => (specUnits_raises s _ _ _ _).bind fun _ => raisesIn_ok _

theorem fineUnits_raises (s : State) (precf : Units) (is : List Nat) (q : Lines) (pos : Nat) :
    RaisesIn [.indexRange, .overrun] (s.fineUnits precf is q pos) := by
  induction is generalizing q pos with
  | nil => exact raisesIn_ok _
  | cons i is ih =>
    unfold State.fineUnits
    dsimp only
    split
    · split
      · exact raisesIn_error (by simp [raiseAt])
      · exact ((readManySigned_overruns (wlRom_le (by omega)) _ _).mono (by simp)).bind fun r => ih _ _
    · exact ih _ _

theorem specFineDecodeRule_raises (c : Chan) (s : State) :
    RaisesIn [.indexRange, .overrun] (specFineDecodeRule c s) :=
  ((checkNqu_raises s).mono (by simp)).bind fun _ => (fineUnits_raises s _ _ _ _).bind fun _ => raisesIn_ok _

theorem dequantUnits_raises (cfg : Config) (x : Channel) (pos : Nat) (is : List Nat) (v : Lines) :
    RaisesIn [.indexRange] (dequantUnits cfg x pos is v) := by
  induction is generalizing v with
  | nil => exact raisesIn_ok _
  | cons i is ih => exact (precIndex_raises _ _).bind fun _ => ih _

theorem dequantRule_raises (c : Chan) (s : State) : RaisesIn [.indexRange] (dequantRule c s) :=
  (checkNqu_raises s).bind fun _ => (dequantUnits_raises _ _ _ _ _).bind fun _ => raisesIn_ok _

theorem scaleUnits_raises (cfg : Config) (sf : Units) (pos : Nat) (is : List Nat) (v : Lines) :
    RaisesIn [.indexRange] (scaleUnits cfg sf pos is v) := by
  induction is generalizing v with
  | nil => exact raisesIn_ok _
  | cons i is ih =>
    unfold scaleUnits
    dsimp only
    split
    · split
      · exact raisesIn_error (by simp [raiseAt])
      · exact ih _
    · exact ih _

theorem scaleRule_raises (c : Chan) (s : State) : RaisesIn [.indexRange] (scaleRule c s) :=
  (checkNqu_raises s).bind fun _ => (scaleUnits_raises _ _ _ _ _).bind fun _ => raisesIn_ok _

/-! ### IMDCT and PCM output (R226, R252) -/

theorem imdctOn_raises (c : Chan) (s : State) (p : Lines) : RaisesIn [.badSize] (imdctOn c s p) := by
  unfold imdctOn
  dsimp only
  split
  · exact raisesIn_ok _
  · exact raisesIn_error (by simp [State.raiseHere, raiseAt])

theorem imdctRule_raises (c : Chan) (s : State) : RaisesIn [.badSize] (imdctRule c s) :=
  (imdctOn_raises c s _).bind fun _ => raisesIn_ok _

theorem imdctWorkRule_raises (c : Chan) (s : State) : RaisesIn [.badSize] (imdctWorkRule c s) :=
  (imdctOn_raises c s _).bind fun _ => raisesIn_ok _

theorem pcmOutRule_raises (s : State) : RaisesIn [.indexRange, .outRange, .badSize] (pcmOutRule s) := by
  unfold pcmOutRule
  dsimp only
  split
  · exact raisesIn_error (by simp [State.raiseHere, raiseAt])
  · split
    · exact raisesIn_error (by simp [State.raiseHere, raiseAt])
    · split
      · exact raisesIn_error (by simp [State.raiseHere, raiseAt])
      · exact raisesIn_ok _

/-! ### The frame (R253 to R258) -/

/-- The errors of the steps of a frame. -/
def frameErrors : List ErrCode :=
  [.sync, .badTable, .huffInvalid, .jointInvalid, .indexRange, .overrun, .frameOverrun, .outRange, .badSize]

theorem channelBody_raises (c : Chan) (l : LocalCh) (s : State) : RaisesIn frameErrors (channelBody c l s) :=
  ((sfDecodeRule_raises c l s).mono (by simp [frameErrors])).bind fun s =>
    ((pmaskBuildRule_raises c s).mono (by simp [frameErrors])).bind fun s =>
    ((precisionCalcRule_raises c s).mono (by simp [frameErrors])).bind fun s =>
    ((specDecodeRule_raises c s).mono (by simp [frameErrors])).bind fun s =>
    ((specFineDecodeRule_raises c s).mono (by simp [frameErrors])).bind fun s =>
    ((dequantRule_raises c s).mono (by simp [frameErrors])).bind fun s =>
    ((scaleRule_raises c s).mono (by simp [frameErrors])).bind fun s =>
    (imdctWorkRule_raises c s).mono (by simp [frameErrors])

theorem channelLoop_raises (chb b k l : Nat) (s : State) : RaisesIn frameErrors (channelLoop chb b k l s) := by
  induction k generalizing l s with
  | zero => exact raisesIn_ok _
  | succ k ih => exact (channelBody_raises _ _ s).bind fun _ => ih _ _

theorem subBlock_raises (chb b : Nat) (s : State) : RaisesIn frameErrors (subBlock chb b s) := by
  refine ((parseBandRule_raises s).mono (by simp [frameErrors])).bind fun s =>
    ((parseGradientRule_overruns s).mono (by simp [frameErrors])).bind fun s =>
    ((gradientBuildRule_raises s).mono (by simp [frameErrors])).bind fun s =>
    (channelLoop_raises chb b chb 0 s).bind fun s => ?_
  rw [alignPos_ok (by decide)]
  exact raisesIn_ok _

theorem subBlockLoop_raises (chb k b : Nat) (s : State) : RaisesIn frameErrors (subBlockLoop chb k b s) := by
  induction k generalizing b s with
  | zero => exact raisesIn_ok _
  | succ k ih => exact (subBlock_raises chb b s).bind fun _ => ih _ _

theorem frameEnd_raises (start : Nat) (s : State) : RaisesIn [.frameOverrun] (frameEnd start s) := by
  unfold frameEnd
  dsimp only
  split
  · exact raisesIn_error (by simp [State.raiseHere, raiseAt])
  · exact raisesIn_ok _

theorem decodeFrameRule_raises (s : State) : RaisesIn frameErrors (decodeFrameRule s) :=
  ((parseHeaderRule_raises _).mono (by simp [frameErrors])).bind fun s1 =>
    (subBlockLoop_raises _ _ _ (snapshot s1)).bind fun s2 =>
    ((frameEnd_raises _ s2).mono (by simp [frameErrors])).bind fun s3 =>
    ((pcmOutRule_raises s3).mono (by simp [frameErrors])).bind fun _ => raisesIn_ok _

/-! ### Every command (R270) -/

/-- The errors of the rule of a command. -/
def ruleErrors : Instr → List ErrCode
  | .nop | .init => []
  | .decodeFrame => frameErrors
  | .brPeek _ | .brRead _ | .brReadSigned _ | .brReadOb _ => [.badWidth, .overrun]
  | .brAlign => [.badWidth]
  | .huffDecode _ => [.badTable, .huffInvalid, .overrun]
  | .parseHeader => [.sync, .indexRange, .overrun]
  | .parseBand | .specFineDecode _ => [.indexRange, .overrun]
  | .parseGradient => [.overrun]
  | .gradientBuild | .pmaskBuild _ | .precisionCalc _ | .dequant _ | .scale _ => [.indexRange]
  | .sfDecode _ _ => [.badTable, .huffInvalid, .indexRange, .overrun]
  | .specDecode _ => [.jointInvalid, .indexRange, .overrun]
  | .imdct _ => [.badSize]
  | .pcmOut => [.indexRange, .outRange, .badSize]

theorem rule_raises (i : Instr) (s : State) : RaisesIn (ruleErrors i) (ruleOf i s) := by
  cases i with
  | nop | init => exact raisesIn_ok _
  | decodeFrame => exact decodeFrameRule_raises s
  | brPeek n => exact (peek_raises s _ n).bind fun _ => raisesIn_ok _
  | brRead n | brReadOb n => exact (read_raises s _ n).bind fun _ => raisesIn_ok _
  | brReadSigned n => exact (readSigned_raises s _ n).bind fun _ => raisesIn_ok _
  | brAlign => exact brAlignRule_raises s
  | huffDecode id => exact (huffAt_raises s _ id).bind fun _ => raisesIn_ok _
  | parseHeader => exact parseHeaderRule_raises s
  | parseBand => exact parseBandRule_raises s
  | parseGradient => exact parseGradientRule_overruns s
  | gradientBuild => exact gradientBuildRule_raises s
  | pmaskBuild c => exact pmaskBuildRule_raises c s
  | precisionCalc c => exact precisionCalcRule_raises c s
  | sfDecode c l => exact sfDecodeRule_raises c l s
  | specDecode c => exact specDecodeRule_raises c s
  | specFineDecode c => exact specFineDecodeRule_raises c s
  | dequant c => exact dequantRule_raises c s
  | scale c => exact scaleRule_raises c s
  | imdct c => exact imdctRule_raises c s
  | pcmOut => exact pcmOutRule_raises s

/-- Those errors are the ones that R270 lists for the command. -/
theorem code_mem_errorsOf (i : Instr) : ∀ e ∈ ruleErrors i, e.code ∈ Claims.errorsOf i := by
  cases i <;> simp [ruleErrors, frameErrors, Claims.errorsOf, ErrCode.code]

theorem notInit_mem_errorsOf {i : Instr} (hn : i ≠ .nop) (hi : i ≠ .init) : ErrCode.notInit.code ∈ Claims.errorsOf i := by
  cases i with
  | nop => exact absurd rfl hn
  | init => exact absurd rfl hi
  | _ => simp [Claims.errorsOf, ErrCode.code]

/-- Settles O10: the errors of the command's rule, and `NOT_INIT`. -/
theorem eachCommandReportsOnlyTheErrorsListedForIt : Obligations.EachCommandReportsOnlyTheErrorsListedForIt := by
  intro i s t hwf hs h ht
  obtain ⟨u, hu, rfl⟩ | ⟨e, he, rfl⟩ | ⟨hn, hi, rfl⟩ | ⟨ho, -⟩ := exec_cases h
  · exfalso
    by_cases hi : i = .init
    · subst hi
      cases hu
      exact absurd (hs.symm.trans ht) (by decide)
    · rw [complete_status, status_complete_err, (rule_keeps hi hu).kept.status, hs] at ht
      cases ht
  · rw [fail_status, status_raise_errCode]
    exact code_mem_errorsOf i e.err (rule_raises i s e he)
  · rw [fail_status, status_raise_errCode]
    exact notInit_mem_errorsOf hn hi
  · rw [operandsOk_of_wellFormed hwf] at ho
    cases ho

end Sys2Proof.Proofs.Errors
end

section
/-! The frames of the commands: what each command leaves unchanged, with or without an error (R27, R252, R259, R276). -/

namespace Sys2Proof.Proofs.CommandFrames

open Sys2Proof.Machine Sys2Proof.Claims Sys2Proof.Proofs.Common Sys2Proof.Proofs.PcmOut Sys2Proof.Proofs.Commands

variable {s t u : State} {c : Chan} {i : Instr} {x : Channel}

/-! ### `INIT_DONE` and the RAMs -/

theorem exec_initDone (hi : i ≠ .init) (h : exec i s = .next t) : t.status.initDone = s.status.initDone := by
  have hfail (e : Raise) : (s.fail (unspecOf i) e).status.initDone = s.status.initDone := by
    rw [fail_status, status_raise_initDone, (unspec_keeps i e s).kept.status]
  obtain ⟨u, hu, rfl⟩ | ⟨e, -, rfl⟩ | ⟨-, -, rfl⟩ | ⟨-, rfl⟩ := exec_cases h
  · rw [complete_status, status_complete_initDone, (rule_keeps hi hu).kept.status]
  · exact hfail e
  · exact hfail _
  · rfl

/-- A command that neither is a frame nor stores PCM. -/
def storesNothing (i : Instr) : Prop := i ≠ .pcmOut ∧ i ≠ .decodeFrame

theorem rule_outBuf (hi : storesNothing i) (h : ruleOf i s = .ok u) : u.outBuf = s.outBuf := by
  cases i with
  | nop | init => cases h; rfl
  | decodeFrame => exact absurd rfl hi.2
  | brPeek n => obtain ⟨-, rfl⟩ := brPeekRule_shape h; rfl
  | brRead n | brReadOb n => obtain ⟨-, rfl⟩ := brReadRule_shape h; rfl
  | brReadSigned n => obtain ⟨-, rfl⟩ := brReadSignedRule_shape h; rfl
  | brAlign => obtain ⟨_, _, rfl⟩ := brAlignRule_shape h; rfl
  | huffDecode k => obtain ⟨_, _, rfl⟩ := huffDecodeRule_shape h; rfl
  | parseHeader => obtain ⟨_, _, _, _, _, _, _, -, -, -, rfl⟩ := parseHeaderRule_shape h; rfl
  | parseBand => obtain ⟨_, _, _, -, rfl⟩ := parseBandRule_shape h; rfl
  | parseGradient => obtain ⟨_, _, _, rfl⟩ := parseGradientRule_shape h; rfl
  | gradientBuild => obtain ⟨_, rfl⟩ := gradientBuildRule_shape h; rfl
  | pmaskBuild c => obtain ⟨-, rfl⟩ := pmaskBuildRule_shape h; exact setChan_outBuf s c _
  | precisionCalc c => obtain ⟨_, _, rfl⟩ := precisionCalcRule_shape h; exact setChan_outBuf s c _
  | sfDecode c l => obtain ⟨_, _, _, rfl⟩ := sfDecodeRule_shape h; exact setChan_outBuf s c _
  | specDecode c => obtain ⟨_, _, rfl⟩ := specDecodeRule_shape h; exact setChan_outBuf s c _
  | specFineDecode c => obtain ⟨_, _, rfl⟩ := specFineDecodeRule_shape h; exact setChan_outBuf s c _
  | dequant c => obtain ⟨_, rfl⟩ := dequantRule_shape h; exact setChan_outBuf s c _
  | scale c => obtain ⟨_, rfl⟩ := scaleRule_shape h; exact setChan_outBuf s c _
  | imdct c => obtain ⟨_, _, rfl⟩ := imdctRule_shape h; exact setChan_outBuf s c _
  | pcmOut => exact absurd rfl hi.1

theorem unspec_outBuf (hi : i ≠ .decodeFrame) (e : Raise) (s : State) : (unspecOf i e s).outBuf = s.outBuf := by
  cases i with
  | decodeFrame => exact absurd rfl hi
  | parseHeader => simp only [unspecOf, unspecHeader]; split <;> rfl
  | gradientBuild => simp only [unspecOf, unspecGradient]
  | pmaskBuild c | precisionCalc c | sfDecode c _ | specDecode c | specFineDecode c | dequant c | scale c =>
    simp only [unspecOf, unspecPmask, unspecPrecision, unspecSf, unspecSpec, unspecFine, unspecDequant, unspecScale,
      setChan_outBuf]
  | _ => rfl

theorem exec_outBuf (hi : storesNothing i) (h : exec i s = .next t) : t.outBuf = s.outBuf := by
  obtain ⟨u, hu, rfl⟩ | ⟨e, -, rfl⟩ | ⟨-, -, rfl⟩ | ⟨-, rfl⟩ := exec_cases h
  · exact (complete_outBuf u).trans (rule_outBuf hi hu)
  · exact unspec_outBuf hi.2 e s
  · exact unspec_outBuf hi.2 _ s
  · rfl

theorem inByte_congr (hb : t.inBuf = s.inBuf) (he : t.ramEpoch = s.ramEpoch) (a : Nat) : t.inByte a = s.inByte a := by
  rw [State.inByte, State.inByte, hb, he]

theorem outByte_congr (hb : t.outBuf = s.outBuf) (he : t.ramEpoch = s.ramEpoch) (a : Nat) :
    t.outByte a = s.outByte a := by
  rw [State.outByte, State.outByte, hb, he]

theorem exec_inByte (h : exec i s = .next t) (a : Nat) : t.inByte a = s.inByte a :=
  inByte_congr (exec_ends h).inBuf (exec_ends h).ramEpoch a

theorem exec_sameBytes (hi : storesNothing i) (h : exec i s = .next t) : sameBytes s t :=
  fun a => ⟨exec_inByte h a, outByte_congr (exec_outBuf hi h) (exec_ends h).ramEpoch a⟩

/-! ### The bytes that a failed frame can have written (R259, log 25) -/

/-- No error of a frame touches a byte that no frame can write. -/
theorem unspecFrame_outByte {a : Nat} (e : Raise) (ha : beyondPcm s a) :
    (s.fail unspecFrame e).outByte a = s.outByte a := by
  have hroom : s.frameRoom ≤ 2 * 256 * (if s.ctrl.outFmt then 4 else 2) := Nat.min_le_left _ _
  have hout : a < s.outPtrByte ∨ s.outPtrByte + s.frameRoom ≤ a := by
    have hptr : s.outPtrByte = s.outPtrWord.toNat := rfl
    unfold beyondPcm at ha
    omega
  by_cases he : e.err = .sync
  · simp [State.outByte, State.fail, State.raise, unspecFrame, he]
  · simp only [State.outByte, State.fail, State.raise, unspecFrame, he, if_false, outBufAfter_get? e hout]

theorem fail_outByte {a : Nat} (e : Raise) (ha : i ≠ .decodeFrame ∨ beyondPcm s a) :
    (s.fail (unspecOf i) e).outByte a = s.outByte a := by
  by_cases hi : i = .decodeFrame
  · subst hi
    exact unspecFrame_outByte e (ha.resolve_left (fun hne => hne rfl))
  · exact outByte_congr (unspec_outBuf hi e s) (unspec_keeps i e s).kept.ramEpoch a

/-- Settles O8: before `INIT` the command is only the error, at the cursor. -/
theorem commandsBeforeInitReportNotInit : Obligations.CommandsBeforeInitReportNotInit := by
  intro i s hwf hn hi hs
  have hk := unspec_keeps i (s.raiseHere .notInit) s
  have hnext : exec i s = .next (s.fail (unspecOf i) (s.raiseHere .notInit)) :=
    (exec_eq_runCommand hn hi (operandsOk_of_wellFormed hwf)).trans (runCommand_notInit hs)
  exact ⟨_, hnext, reports_fail hk, hk.kept.cmdLast, hk.kept.ctrl, hk.kept.arg, hk.kept.inLen, hk.kept.hlut,
    unspec_prev i _ s .c0, unspec_prev i _ s .c1, exec_inByte hnext, fun a ha => fail_outByte _ ha⟩

/-! ### The bit reader and the field commands (R115 to R119, R134, R244 to R248, R150) -/

/-- A command writes what its rule, its errors and a refused operand write. -/
theorem exec_writes (P : State → Prop) (h : exec i s = .next t) (hok : ∀ u, ruleOf i s = .ok u → P u.complete)
    (herr : ∀ e, P (s.fail (unspecOf i) e)) (hill : P s.raiseIllegal) : P t := by
  obtain ⟨u, hu, rfl⟩ | ⟨e, -, rfl⟩ | ⟨-, -, rfl⟩ | ⟨-, rfl⟩ := exec_cases h
  · exact hok u hu
  · exact herr e
  · exact herr _
  · exact hill

/-- `t` is `s` but for `RESULT`, the cursor, the flags and the error registers. -/
def onlyReader (s t : State) : Prop := onlyFlags { s with result := t.result, brPos := t.brPos } t

theorem exec_brPeek_writes {n : Nat} (h : exec (.brPeek n) s = .next t) : onlyReader s t ∧ t.brPos = s.brPos :=
  exec_writes (fun t => onlyReader s t ∧ t.brPos = s.brPos) h
    (fun u hu => by obtain ⟨-, rfl⟩ := brPeekRule_shape hu; exact ⟨rfl, rfl⟩) (fun _ => ⟨rfl, rfl⟩) ⟨rfl, rfl⟩

theorem exec_brRead_writes {n : Nat} (h : exec (.brRead n) s = .next t) : onlyReader s t :=
  exec_writes (onlyReader s) h (fun u hu => by obtain ⟨-, rfl⟩ := brReadRule_shape hu; rfl) (fun _ => rfl) rfl

theorem exec_brReadSigned_writes {n : Nat} (h : exec (.brReadSigned n) s = .next t) : onlyReader s t :=
  exec_writes (onlyReader s) h (fun u hu => by obtain ⟨-, rfl⟩ := brReadSignedRule_shape hu; rfl) (fun _ => rfl) rfl

theorem exec_brReadOb_writes {n : Nat} (h : exec (.brReadOb n) s = .next t) : onlyReader s t :=
  exec_writes (onlyReader s) h (fun u hu => by obtain ⟨-, rfl⟩ := brReadRule_shape hu; rfl) (fun _ => rfl) rfl

theorem exec_brAlign_writes (h : exec .brAlign s = .next t) : onlyReader s t ∧ t.result = s.result :=
  exec_writes (fun t => onlyReader s t ∧ t.result = s.result) h
    (fun u hu => by obtain ⟨_, _, rfl⟩ := brAlignRule_shape hu; exact ⟨rfl, rfl⟩) (fun _ => ⟨rfl, rfl⟩) ⟨rfl, rfl⟩

theorem exec_huffDecode_writes {id : Nat} (h : exec (.huffDecode id) s = .next t) : onlyReader s t :=
  exec_writes (onlyReader s) h (fun u hu => by obtain ⟨_, _, rfl⟩ := huffDecodeRule_shape hu; rfl) (fun _ => rfl) rfl

/-- `t` is `s` but for what `PARSE_HEADER` writes (R244). -/
def onlyHeader (s t : State) : Prop :=
  onlyFlags { s with
    hdr := t.hdr, flen := t.flen, brPos := t.brPos
    geom := { s.geom with nch := t.geom.nch, fbits := t.geom.fbits }
    ch0 := { s.ch0 with mbits := t.ch0.mbits }
    ch1 := { s.ch1 with mbits := t.ch1.mbits } } t

theorem exec_parseHeader_writes (h : exec .parseHeader s = .next t) : onlyHeader s t := by
  refine exec_writes (onlyHeader s) h (fun u hu => ?_) (fun e => ?_) rfl
  · obtain ⟨_, _, _, _, _, _, _, -, -, -, rfl⟩ := parseHeaderRule_shape hu
    rfl
  · by_cases he : e.err = .sync
    · simp only [unspecOf, State.fail, unspecHeader, he, if_true]
      rfl
    · simp only [unspecOf, State.fail, unspecHeader, he, if_false]
      rfl

/-- `t` is `s` but for what `PARSE_BAND` writes (R247). -/
def onlyBand (s t : State) : Prop :=
  onlyFlags { s with brPos := t.brPos, geom := { s.geom with nbands := t.geom.nbands, nqu := t.geom.nqu } } t

theorem exec_parseBand_writes (h : exec .parseBand s = .next t) : onlyBand s t :=
  exec_writes (onlyBand s) h (fun u hu => by obtain ⟨_, _, _, -, rfl⟩ := parseBandRule_shape hu; rfl) (fun _ => rfl) rfl

/-- `t` is `s` but for what `PARSE_GRADIENT` writes (R248). -/
def onlyGradientFields (s t : State) : Prop :=
  onlyFlags { s with brPos := t.brPos, gparam0 := t.gparam0, gparam1 := t.gparam1 } t

theorem exec_parseGradient_writes (h : exec .parseGradient s = .next t) : onlyGradientFields s t :=
  exec_writes (onlyGradientFields s) h (fun u hu => by obtain ⟨_, _, _, rfl⟩ := parseGradientRule_shape hu; rfl)
    (fun _ => rfl) rfl

/-- `t` is `s` but for `GRADIENT`. -/
def onlyGradient (s t : State) : Prop := onlyFlags { s with gradient := t.gradient } t

theorem onlyGradient_fail (s : State) (e : Raise) : onlyGradient s (s.fail unspecGradient e) := by
  simp only [State.fail, unspecGradient]
  generalize freeUnits s.freeCtr .gradient = g
  rfl

theorem exec_gradientBuild_writes (h : exec .gradientBuild s = .next t) : onlyGradient s t :=
  exec_writes (onlyGradient s) h (fun u hu => by obtain ⟨_, rfl⟩ := gradientBuildRule_shape hu; rfl)
    (onlyGradient_fail s) rfl

/-- Settles O54: one frame for each command. -/
theorem readerAndFieldCommandsWriteTheirRegistersOnly : Obligations.ReaderAndFieldCommandsWriteTheirRegistersOnly := by
  intro i n id s t h hi
  have hstore : storesNothing i ∧ i ≠ .init := by
    simp only [List.mem_cons, List.not_mem_nil, or_false] at hi
    rcases hi with rfl | rfl | rfl | rfl | rfl | rfl | rfl | rfl | rfl | rfl <;> exact ⟨⟨nofun, nofun⟩, nofun⟩
  refine ⟨exec_sameBytes hstore.1 h, exec_initDone hstore.2 h, fun hr => ?_, ?_, ?_, ?_, ?_, ?_, ?_⟩
  · simp only [List.mem_cons, List.not_mem_nil, or_false] at hr
    rcases hr with rfl | rfl | rfl | rfl | rfl | rfl
    · exact (exec_brPeek_writes h).1
    · exact exec_brRead_writes h
    · exact exec_brReadSigned_writes h
    · exact exec_brReadOb_writes h
    · exact (exec_brAlign_writes h).1
    · exact exec_huffDecode_writes h
  · rintro rfl; exact (exec_brPeek_writes h).2
  · rintro rfl; exact (exec_brAlign_writes h).2
  · rintro rfl; exact exec_parseHeader_writes h
  · rintro rfl; exact exec_parseBand_writes h
  · rintro rfl; exact exec_parseGradient_writes h
  · rintro rfl; exact exec_gradientBuild_writes h

/-! ### The channel engines (R154 to R226) -/

/-- `t` is `s` with channel slot `c` replaced by `x`, and the cursor, the flags and the error registers changed. -/
def writesChannel (s t : State) (c : Chan) (x : Channel) : Prop :=
  t = { s.setChan c x with
    status := t.status, errPos := t.errPos, errCmd := t.errCmd, freeCtr := t.freeCtr, brPos := t.brPos }

theorem writesChannel.chan_eq (h : writesChannel s t c x) : t.chan c = x := by
  rw [h]
  cases c <;> rfl

theorem writesChannel.onlyChannel (h : writesChannel s t c x) : onlyChannel s t c := by
  rw [h]
  cases c <;> exact ⟨rfl, rfl⟩

theorem writesChannel_raiseIllegal (s : State) (c : Chan) : writesChannel s s.raiseIllegal c (s.chan c) := by
  cases c <;> rfl

theorem writesChannel_complete (s : State) (c : Chan) (x : Channel) (p : Word) :
    writesChannel s { s.setChan c x with brPos := p }.complete c x := rfl

theorem writesChannel_fail {unspec : Raise → State → State} {e : Raise} {p : Word}
    (h : unspec e s = { s.setChan c x with brPos := p }) : writesChannel s (s.fail unspec e) c x := by
  rw [State.fail, h]
  rfl

/-- A command that writes channel slot `c` only, to a slot that `P` describes. -/
theorem exec_writesChannel (P : Channel → Prop) (h : exec i s = .next t)
    (hok : ∀ u, ruleOf i s = .ok u → ∃ x p, P x ∧ u = { s.setChan c x with brPos := p })
    (herr : ∀ e, ∃ x p, P x ∧ unspecOf i e s = { s.setChan c x with brPos := p }) (hill : P (s.chan c)) :
    ∃ x, P x ∧ writesChannel s t c x := by
  refine exec_writes (fun t => ∃ x, P x ∧ writesChannel s t c x) h (fun u hu => ?_) (fun e => ?_)
    ⟨s.chan c, hill, writesChannel_raiseIllegal s c⟩
  · obtain ⟨x, p, hx, rfl⟩ := hok u hu
    exact ⟨x, hx, writesChannel_complete s c x p⟩
  · obtain ⟨x, p, hx, he⟩ := herr e
    exact ⟨x, hx, writesChannel_fail he⟩

theorem exec_pmaskBuild_writes (h : exec (.pmaskBuild c) s = .next t) :
    ∃ x, x = { s.chan c with pmask := x.pmask } ∧ writesChannel s t c x :=
  exec_writesChannel (fun x => x = { s.chan c with pmask := x.pmask }) h
    (fun u hu => by obtain ⟨-, rfl⟩ := pmaskBuildRule_shape hu; exact ⟨_, _, rfl, rfl⟩) (fun _ => ⟨_, _, rfl, rfl⟩) rfl

theorem exec_precisionCalc_writes (h : exec (.precisionCalc c) s = .next t) :
    ∃ x, x = { s.chan c with prec := x.prec, precf := x.precf } ∧ writesChannel s t c x :=
  exec_writesChannel (fun x => x = { s.chan c with prec := x.prec, precf := x.precf }) h
    (fun u hu => by obtain ⟨_, _, rfl⟩ := precisionCalcRule_shape hu; exact ⟨_, _, rfl, rfl⟩)
    (fun _ => ⟨_, _, rfl, rfl⟩) rfl

theorem exec_sfDecode_writes {l : LocalCh} (h : exec (.sfDecode c l) s = .next t) :
    ∃ x, x = { s.chan c with sf := x.sf, sfcfg := x.sfcfg } ∧ writesChannel s t c x :=
  exec_writesChannel (fun x => x = { s.chan c with sf := x.sf, sfcfg := x.sfcfg }) h
    (fun u hu => by obtain ⟨_, _, _, rfl⟩ := sfDecodeRule_shape hu; exact ⟨_, _, rfl, rfl⟩)
    (fun _ => ⟨_, _, rfl, rfl⟩) rfl

theorem exec_specDecode_writes (h : exec (.specDecode c) s = .next t) :
    ∃ x, x = { s.chan c with qspec := x.qspec } ∧ writesChannel s t c x :=
  exec_writesChannel (fun x => x = { s.chan c with qspec := x.qspec }) h
    (fun u hu => by obtain ⟨_, _, rfl⟩ := specDecodeRule_shape hu; exact ⟨_, _, rfl, rfl⟩)
    (fun _ => ⟨_, _, rfl, rfl⟩) rfl

theorem exec_specFineDecode_writes (h : exec (.specFineDecode c) s = .next t) :
    ∃ x, x = { s.chan c with qspecf := x.qspecf } ∧ writesChannel s t c x :=
  exec_writesChannel (fun x => x = { s.chan c with qspecf := x.qspecf }) h
    (fun u hu => by obtain ⟨_, _, rfl⟩ := specFineDecodeRule_shape hu; exact ⟨_, _, rfl, rfl⟩)
    (fun _ => ⟨_, _, rfl, rfl⟩) rfl

theorem exec_dequant_writes (h : exec (.dequant c) s = .next t) :
    ∃ x, x = { s.chan c with spec := x.spec } ∧ writesChannel s t c x :=
  exec_writesChannel (fun x => x = { s.chan c with spec := x.spec }) h
    (fun u hu => by obtain ⟨_, rfl⟩ := dequantRule_shape hu; exact ⟨_, _, rfl, rfl⟩) (fun _ => ⟨_, _, rfl, rfl⟩) rfl

theorem exec_scale_writes (h : exec (.scale c) s = .next t) :
    ∃ x, x = { s.chan c with spec := x.spec } ∧ writesChannel s t c x :=
  exec_writesChannel (fun x => x = { s.chan c with spec := x.spec }) h
    (fun u hu => by obtain ⟨_, rfl⟩ := scaleRule_shape hu; exact ⟨_, _, rfl, rfl⟩) (fun _ => ⟨_, _, rfl, rfl⟩) rfl

theorem exec_imdct_writes (h : exec (.imdct c) s = .next t) :
    ∃ x, x = { s.chan c with pcm := x.pcm, prev := x.prev } ∧ writesChannel s t c x := by
  refine exec_writesChannel (fun x => x = { s.chan c with pcm := x.pcm, prev := x.prev }) h
    (fun u hu => ?_) (fun _ => ⟨s.chan c, s.brPos, rfl, ?_⟩) rfl
  · obtain ⟨_, _, rfl⟩ := imdctRule_shape hu
    exact ⟨_, _, rfl, rfl⟩
  · rw [setChan_chan_self]
    rfl

/-- The engines that read no bit. -/
def cursorFree (i : Instr) : Prop := (∃ c, i = .pmaskBuild c) ∨ (∃ c, i = .precisionCalc c) ∨ (∃ c, i = .dequant c) ∨
  (∃ c, i = .scale c) ∨ ∃ c, i = .imdct c

theorem exec_brPos_of_cursorFree (hi : cursorFree i) (h : exec i s = .next t) : t.brPos = s.brPos := by
  obtain ⟨c, rfl⟩ | ⟨c, rfl⟩ | ⟨c, rfl⟩ | ⟨c, rfl⟩ | ⟨c, rfl⟩ := hi
  · exact exec_writes (fun t => t.brPos = s.brPos) h
      (fun u hu => by obtain ⟨-, rfl⟩ := pmaskBuildRule_shape hu; exact setChan_brPos s c _)
      (fun _ => setChan_brPos s c _) rfl
  · exact exec_writes (fun t => t.brPos = s.brPos) h
      (fun u hu => by obtain ⟨_, _, rfl⟩ := precisionCalcRule_shape hu; exact setChan_brPos s c _)
      (fun _ => setChan_brPos s c _) rfl
  · exact exec_writes (fun t => t.brPos = s.brPos) h
      (fun u hu => by obtain ⟨_, rfl⟩ := dequantRule_shape hu; exact setChan_brPos s c _)
      (fun _ => setChan_brPos s c _) rfl
  · exact exec_writes (fun t => t.brPos = s.brPos) h
      (fun u hu => by obtain ⟨_, rfl⟩ := scaleRule_shape hu; exact setChan_brPos s c _)
      (fun _ => setChan_brPos s c _) rfl
  · exact exec_writes (fun t => t.brPos = s.brPos) h
      (fun u hu => by obtain ⟨_, _, rfl⟩ := imdctRule_shape hu; exact setChan_brPos s c _) (fun _ => rfl) rfl

theorem chan_of_writesChannel {P : Channel → Prop} (h : ∃ x, P x ∧ writesChannel s t c x) : P (t.chan c) := by
  obtain ⟨x, hx, hw⟩ := h
  rwa [hw.chan_eq]

theorem onlyChannel_of_writesChannel {P : Channel → Prop} (h : ∃ x, P x ∧ writesChannel s t c x) : onlyChannel s t c := by
  obtain ⟨x, -, hw⟩ := h
  exact hw.onlyChannel

/-- Settles O55: every engine writes the cells of its own slot that its rule and its errors name. -/
theorem channelCommandsWriteTheirArraysOnly : Obligations.ChannelCommandsWriteTheirArraysOnly := by
  intro s t c
  refine ⟨fun i hi h => ?_, fun h => ?_, fun h => ?_, fun l h => chan_of_writesChannel (exec_sfDecode_writes h),
    fun h => chan_of_writesChannel (exec_specDecode_writes h),
    fun h => chan_of_writesChannel (exec_specFineDecode_writes h), fun h => ?_, fun h => ?_⟩
  · have hstore : storesNothing i ∧ i ≠ .init := by
      simp only [List.mem_cons, List.not_mem_nil, or_false] at hi
      rcases hi with rfl | rfl | rfl | rfl | rfl | rfl | rfl | rfl | rfl <;> exact ⟨⟨nofun, nofun⟩, nofun⟩
    refine ⟨?_, exec_sameBytes hstore.1 h, exec_initDone hstore.2 h⟩
    simp only [List.mem_cons, List.not_mem_nil, or_false] at hi
    rcases hi with rfl | rfl | rfl | rfl | rfl | rfl | rfl | rfl | rfl
    · exact onlyChannel_of_writesChannel (exec_pmaskBuild_writes h)
    · exact onlyChannel_of_writesChannel (exec_precisionCalc_writes h)
    · exact onlyChannel_of_writesChannel (exec_dequant_writes h)
    · exact onlyChannel_of_writesChannel (exec_scale_writes h)
    · exact onlyChannel_of_writesChannel (exec_imdct_writes h)
    · exact onlyChannel_of_writesChannel (exec_sfDecode_writes h)
    · exact onlyChannel_of_writesChannel (exec_sfDecode_writes h)
    · exact onlyChannel_of_writesChannel (exec_specDecode_writes h)
    · exact onlyChannel_of_writesChannel (exec_specFineDecode_writes h)
  · exact ⟨exec_brPos_of_cursorFree (.inl ⟨c, rfl⟩) h, chan_of_writesChannel (exec_pmaskBuild_writes h)⟩
  · exact ⟨exec_brPos_of_cursorFree (.inr (.inl ⟨c, rfl⟩)) h, chan_of_writesChannel (exec_precisionCalc_writes h)⟩
  · obtain h | h := h
    · exact ⟨exec_brPos_of_cursorFree (.inr (.inr (.inl ⟨c, rfl⟩))) h, chan_of_writesChannel (exec_dequant_writes h)⟩
    · exact ⟨exec_brPos_of_cursorFree (.inr (.inr (.inr (.inl ⟨c, rfl⟩)))) h,
        chan_of_writesChannel (exec_scale_writes h)⟩
  · exact ⟨exec_brPos_of_cursorFree (.inr (.inr (.inr (.inr ⟨c, rfl⟩)))) h,
      chan_of_writesChannel (exec_imdct_writes h)⟩

/-! ### The output (R252, R258, R259) -/

/-- `t` has PCM bytes stored from the pointer of `s` up, no more than two channels of 256 samples, and its pointer
behind them. -/
def storesPcm (s t : State) : Prop :=
  ∃ d : List Byte, t.outBuf = s.outBuf.putBytes s.outPtrByte d ∧ d.length ≤ 2 * 256 * s.sampleBytes ∧
    t.outPtrWord.toNat = s.outPtrByte + d.length

theorem pcmOutRule_stores (h : pcmOutRule s = .ok t) : storesPcm s t := by
  obtain ⟨hn, hf, hroom, rfl⟩ := pcmOutRule_shape h
  have hout : s.rom.outBufBytes ≤ 131072 := (header_bounds s.cfg).2.1
  have hsize : 2 ^ s.geom.fbits.toNat ≤ 256 := by
    obtain h | h := (sizeOk_iff _).mp hf <;> rw [h] <;> decide
  refine ⟨s.pcmData, rfl, ?_, ?_⟩
  · rw [length_pcmData]
    exact Nat.mul_le_mul_right _ (Nat.mul_le_mul (by omega) hsize)
  · rw [length_pcmData]
    exact outPtrWord_of_multiple rfl ((four_dvd_outPtrByte s).add (four_dvd_pcmBytes hf)) (by omega)

theorem decodeFrameRule_stores (h : decodeFrameRule s = .ok t) : storesPcm s t ∧ t.result = s.result := by
  obtain ⟨s1, s2, s3, s4, h1, h2, h3, h4, rfl⟩ := decodeFrameRule_stages h
  obtain ⟨_, _, _, _, _, _, _, -, -, -, rfl⟩ := parseHeaderRule_shape h1
  have hk := bodyKept_subBlockLoop h2
  obtain ⟨-, rfl⟩ := frameEnd_shape h3
  obtain ⟨d, hd, hlen, hptr⟩ := pcmOutRule_stores h4
  obtain ⟨-, -, -, rfl⟩ := pcmOutRule_shape h4
  have hptr2 : s2.outPtrByte = s.outPtrByte := congrArg (fun p : BitVec 30 => (p ++ 0#2).toNat) hk.outPtr
  have hsample : s2.sampleBytes = s.sampleBytes :=
    congrArg (fun c : Ctrl => if c.outFmt then 4 else 2) hk.kept.ctrl
  refine ⟨⟨d, ?_, ?_, ?_⟩, hk.result⟩
  · exact hd.trans (congrArg₂ (fun m a => Memory.putBytes m a d) hk.outBuf hptr2)
  · exact hlen.trans (congrArg (2 * 256 * ·) hsample).le
  · exact hptr.trans (congrArg (· + d.length) hptr2)

theorem storesPcm.outByte_beyond (h : storesPcm s t) (he : t.ramEpoch = s.ramEpoch) {a : Nat} (ha : beyondPcm s a) :
    t.outByte a = s.outByte a := by
  obtain ⟨d, hd, hlen, -⟩ := h
  refine outByte_outside hd he ?_
  have hptr : s.outPtrByte = s.outPtrWord.toNat := rfl
  unfold State.sampleBytes at hlen
  unfold beyondPcm at ha
  omega

theorem storesPcm.outByte_above (h : storesPcm s t) (he : t.ramEpoch = s.ramEpoch) {a : Nat}
    (ha : t.outPtrWord.toNat ≤ a) : t.outByte a = s.outByte a := by
  obtain ⟨d, hd, -, hptr⟩ := h
  exact outByte_outside hd he (.inr (hptr ▸ ha))

/-- The errors after which a frame's output is as before. -/
theorem keepsOutBuf_of_code {e : ErrCode} (h : e.code ∈ ([1, 10, 11] : List (BitVec 8))) : e.keepsOutBuf = true := by
  revert h
  cases e <;> decide

theorem keepsOutPtr_of_code {e : ErrCode} (h : e.code ∈ ([1, 5, 10, 11] : List (BitVec 8))) :
    e.keepsOutPtr = true := by
  revert h
  cases e <;> decide

theorem fail_unspecFrame_outBuf {e : Raise} (h : e.err.code ∈ ([1, 10, 11] : List (BitVec 8))) :
    (s.fail unspecFrame e).outBuf = s.outBuf := by
  by_cases he : e.err = .sync
  · simp only [State.fail, State.raise, unspecFrame, he, if_true]
  · simp only [State.fail, State.raise, unspecFrame, he, if_false, State.outBufAfter, keepsOutBuf_of_code h, if_true]

theorem fail_unspecFrame_outPtr {e : Raise} (h : e.err.code ∈ ([1, 5, 10, 11] : List (BitVec 8))) :
    (s.fail unspecFrame e).outPtr = s.outPtr := by
  by_cases he : e.err = .sync
  · simp only [State.fail, State.raise, unspecFrame, he, if_true]
  · simp only [State.fail, State.raise, unspecFrame, he, if_false, State.outPtrAfter, keepsOutPtr_of_code h, if_true]

theorem fail_unspecFrame_result (s : State) (e : Raise) : (s.fail unspecFrame e).result = s.result := by
  by_cases he : e.err = .sync
  · simp only [State.fail, State.raise, unspecFrame, he, if_true]
  · simp only [State.fail, State.raise, unspecFrame, he, if_false]

theorem fail_unspecFrame_bytesConsumed (s : State) (e : Raise) : (s.fail unspecFrame e).bytesConsumed = 0 := by
  by_cases he : e.err = .sync
  · simp only [State.fail, State.raise, unspecFrame, he, if_true]
  · simp only [State.fail, State.raise, unspecFrame, he, if_false]

/-- What `PCM_OUT` and `DECODE_FRAME` are: an end without an error that stored PCM, or an error. -/
theorem exec_output_cases (hi : i = .pcmOut ∨ i = .decodeFrame) (h : exec i s = .next t) :
    (storesPcm s t ∧ t.result = s.result ∧ t.status.err = s.status.err) ∨ ∃ e, t = s.fail (unspecOf i) e := by
  obtain ⟨u, hu, rfl⟩ | ⟨e, -, rfl⟩ | ⟨-, -, rfl⟩ | ⟨ho, -⟩ := exec_cases h
  · have hst : u.status.err = s.status.err :=
      congrArg Status.err (rule_keeps (by rintro rfl; simp at hi) hu).kept.status
    refine .inl ?_
    obtain rfl | rfl := hi
    · have hstore : storesPcm s u := pcmOutRule_stores hu
      refine ⟨hstore, ?_, hst⟩
      obtain ⟨-, -, -, rfl⟩ := pcmOutRule_shape hu
      rfl
    · obtain ⟨hstore, hresult⟩ := decodeFrameRule_stores hu
      exact ⟨hstore, hresult, hst⟩
  · exact .inr ⟨e, rfl⟩
  · exact .inr ⟨_, rfl⟩
  · obtain rfl | rfl := hi <;> cases ho

theorem exec_pcmOut_writes (h : exec .pcmOut s = .next t) : onlyFlags { s with outBuf := t.outBuf, outPtr := t.outPtr } t :=
  exec_writes (fun t => onlyFlags { s with outBuf := t.outBuf, outPtr := t.outPtr } t) h
    (fun u hu => by obtain ⟨-, -, -, rfl⟩ := pcmOutRule_shape hu; rfl) (fun _ => rfl) rfl

/-- Settles O56: without an error the bytes of the PCM, with one those that the error leaves unspecified. -/
theorem outputCommandsWriteTheirPcmOnly : Obligations.OutputCommandsWriteTheirPcmOnly := by
  intro s t i hi h
  have hends := exec_ends h
  have hne : i ≠ .init := by rintro rfl; simp at hi
  have hlut := exec_hlut hne h
  have hcases := exec_output_cases hi h
  refine ⟨?pcm, hends.cfg, hends.ctrl, hends.cmdLast, hends.arg, ?result, hends.inLen, hlut, hends.inBuf,
    hends.hostQueue, hends.hostData, hends.ramEpoch, exec_initDone hne h, exec_inByte h, fun a ha => ?beyond,
    fun hno a ha => ?above, fun hs ht => ?failed⟩
  case pcm => rintro rfl; exact exec_pcmOut_writes h
  case result =>
    obtain ⟨-, hresult, -⟩ | ⟨e, rfl⟩ := hcases
    · exact hresult
    · obtain rfl | rfl := hi
      · rfl
      · exact fail_unspecFrame_result s e
  case beyond =>
    obtain ⟨hstore, -, -⟩ | ⟨e, rfl⟩ := hcases
    · exact hstore.outByte_beyond hends.ramEpoch ha
    · exact fail_outByte e (.inr ha)
  case above =>
    obtain ⟨hstore, -, -⟩ | ⟨e, rfl⟩ := hcases
    · exact hstore.outByte_above hends.ramEpoch ha
    · obtain rfl | ⟨-, ht⟩ := hno
      · exact fail_outByte e (.inl nofun)
      · cases ht
  case failed =>
    obtain ⟨-, -, herr⟩ | ⟨e, rfl⟩ := hcases
    · rw [herr, hs] at ht
      cases ht
    · obtain rfl | rfl := hi
      · exact ⟨fun _ => rfl, fun _ => rfl⟩
      · rw [fail_status, status_raise_errCode]
        exact ⟨fun hc => fail_unspecFrame_outBuf (hc.resolve_left nofun),
          fun hc => fail_unspecFrame_outPtr (hc.resolve_left nofun)⟩

end Sys2Proof.Proofs.CommandFrames
end

section
/-! The cursor never moves back in a command that ends without an error (R20). -/

namespace Sys2Proof.Proofs.Cursor

open Sys2Proof.Machine Sys2Proof.Claims Sys2Proof.Proofs.Commands Sys2Proof.Proofs.Frame

variable {s t u : State} {c : Chan} {i : Instr}

/-- The least multiple of `m` at or above `p` (R114). -/
theorem alignUp_spec {m : Nat} (hm : 0 < m) (p : Nat) : m ∣ alignUp m p ∧ p ≤ alignUp m p ∧ alignUp m p < p + m := by
  have hdiv := Nat.div_add_mod (p + m - 1) m
  have hmod := Nat.mod_lt (p + m - 1) hm
  refine ⟨Nat.dvd_mul_right m _, ?_, ?_⟩ <;> unfold alignUp <;> omega

theorem alignUp_le_multiple {m k p : Nat} (hm : 0 < m) (h : p ≤ k * m) : alignUp m p ≤ k * m := by
  obtain ⟨⟨j, hj⟩, -, hlt⟩ := alignUp_spec hm p
  rw [hj] at hlt ⊢
  have hjk : m * j < m * (k + 1) := by rw [Nat.mul_succ, Nat.mul_comm m k]; omega
  rw [Nat.mul_comm k m]
  exact Nat.mul_le_mul_left m (Nat.lt_succ_iff.mp (Nat.lt_of_mul_lt_mul_left hjk))

/-! ### Where reads can end (R110) -/

/-- A run of reads from `p` that ends at `q` has read no bit, or ends below the limit. -/
def EndsReadable (s : State) (p q : Nat) : Prop := q = p ∨ q ≤ s.limitBits

variable {p q r n : Nat}

theorem EndsReadable.trans (h : EndsReadable s p q) (k : EndsReadable s q r) : EndsReadable s p r := by
  obtain rfl | hr := k
  · exact h
  · exact .inr hr

theorem endsReadable_of_readable (h : s.readable p n) {m : Nat} (hm : m ≤ n) : EndsReadable s p (p + m) := by
  obtain ⟨-, rfl | h⟩ := h
  · exact .inl (by omega)
  · exact .inr (by omega)

theorem read_endsReadable {v : Nat × Nat} (h : s.read p n = .ok v) : EndsReadable s p v.2 := by
  obtain ⟨hr, rfl⟩ := read_inv h
  exact endsReadable_of_readable hr le_rfl

theorem huffAt_endsReadable {id : Nat} {v : Int × Nat} (h : s.huffAt p id = .ok v) : EndsReadable s p v.2 := by
  obtain ⟨i, hi, hr, rfl⟩ := huffAt_inv h
  by_cases hid : id ≤ 12
  · exact endsReadable_of_readable hr ((Huffman.wellFormedCodebook_huff s.cfg hid).len_le i)
  · have hnone : s.hlut.getD id [] = [] := by simp [Vector.getD, show 13 ≤ id by omega]
    rw [hnone] at hi
    cases hi

theorem readManySigned_endsReadable {w k : Nat} {v : List Int × Nat} (h : s.readManySigned w k p = .ok v) :
    EndsReadable s p v.2 := by
  induction k generalizing p v with
  | zero => cases h; exact .inl rfl
  | succ k ih =>
    simp only [State.readManySigned, bind_ok] at h
    obtain ⟨r, hr, rest, hrest, h⟩ := h
    cases h
    obtain ⟨hreadable, rfl⟩ := readSigned_inv hr
    exact (endsReadable_of_readable hreadable le_rfl).trans (ih hrest :)

theorem joint2At_endsReadable {v : List Int × Nat} (h : s.joint2At p = .ok v) : EndsReadable s p v.2 := by
  simp only [State.joint2At, bind_ok] at h
  obtain ⟨k, hk, h⟩ := h
  split at h <;> cases h
  exact read_endsReadable hk

theorem joint4At_endsReadable {v : List Int × Nat} (h : s.joint4At p = .ok v) : EndsReadable s p v.2 := by
  simp only [State.joint4At, bind_ok] at h
  obtain ⟨k, hk, h⟩ := h
  split at h <;> cases h
  exact read_endsReadable hk

theorem joint4Groups_endsReadable {g : Nat} {v : List Int × Nat} (h : s.joint4Groups g p = .ok v) :
    EndsReadable s p v.2 := by
  induction g generalizing p v with
  | zero => cases h; exact .inl rfl
  | succ g ih =>
    simp only [State.joint4Groups, bind_ok] at h
    obtain ⟨first, hfirst, rest, hrest, h⟩ := h
    cases h
    exact (joint4At_endsReadable hfirst).trans (ih hrest :)

theorem unitLines_endsReadable {k : Nat} {v : List Int × Nat} (h : s.unitLines k n p = .ok v) :
    EndsReadable s p v.2 := by
  unfold State.unitLines at h
  split at h
  · split at h
    · exact joint2At_endsReadable h
    · exact joint4Groups_endsReadable h
  · exact readManySigned_endsReadable h

theorem specUnits_endsReadable {prec : Units} {is : List Nat} {lines : Lines} {v : Lines × Nat}
    (h : s.specUnits prec is lines p = .ok v) : EndsReadable s p v.2 := by
  induction is generalizing lines p with
  | nil => cases h; exact .inl rfl
  | cons i is ih =>
    simp only [State.specUnits, bind_ok] at h
    obtain ⟨k, -, r, hr, h⟩ := h
    exact (unitLines_endsReadable hr).trans (ih h)

theorem fineUnits_endsReadable {precf : Units} {is : List Nat} {lines : Lines} {v : Lines × Nat}
    (h : s.fineUnits precf is lines p = .ok v) : EndsReadable s p v.2 := by
  induction is generalizing lines p with
  | nil => cases h; exact .inl rfl
  | cons i is ih =>
    simp only [State.fineUnits] at h
    split at h
    · split at h
      · cases h
      · simp only [bind_ok] at h
        obtain ⟨r, hr, h⟩ := h
        exact (readManySigned_endsReadable hr).trans (ih h)
    · exact ih h

/-! ### Every rule but the alignment and the frame (R20) -/

/-- A cursor set where reads have led stands there, and not before it was. -/
theorem cursor_le_of_reads (ht : t.brPos = Word.ofNat q) (hle : cursor s ≤ q) (h : EndsReadable s (cursor s) q) :
    cursor s ≤ cursor t := by
  have hq : q < 2 ^ 32 := by
    obtain rfl | h := h
    · exact s.brPos.isLt
    · have := limitBits_le s
      omega
  rwa [show cursor t = q by rw [cursor, ht, Word.ofNat, BitVec.toNat_ofNat, Nat.mod_eq_of_lt hq]]

theorem cursor_le_of_onward (h : Onward s t) (hs : cursor s ≤ s.limitBits) : cursor s ≤ cursor t := (h.cursor hs).1

theorem cursor_le_of_brPos_eq (h : t.brPos = s.brPos) : cursor s ≤ cursor t := by rw [cursor, cursor, h]

/-- The first field of a command, where it has a bit, is below the limit. -/
theorem cursor_le_limit_of_read (hn : n ≠ 0) {v : Nat × Nat} (h : s.read (cursor s) n = .ok v) :
    cursor s ≤ s.limitBits := by
  have := (read_inv h).1.2.resolve_left hn
  omega

theorem brAlignRule_cursor (h : brAlignRule s = .ok t)
    (hk : ∃ k, cursor s ≤ k * s.arg.toNat ∧ k * s.arg.toNat < 2 ^ 32) : cursor s ≤ cursor t := by
  obtain ⟨k, hle, hlt⟩ := hk
  unfold brAlignRule at h
  split at h
  · cases h
  · by_cases hm : s.argNat = 0
    · simp [alignPos, hm] at h
    · have hfits : alignUp s.argNat (cursor s) < 2 ^ 32 :=
        (alignUp_le_multiple (Nat.pos_of_ne_zero hm) hle).trans_lt hlt
      rw [alignPos_ok hm, ok_bind, if_pos hfits] at h
      cases h
      rw [show cursor (s.setBrPos (alignUp s.argNat (cursor s))) = alignUp s.argNat (cursor s) from
        (BitVec.toNat_ofNat _ _).trans (Nat.mod_eq_of_lt hfits)]
      exact (alignUp_spec (Nat.pos_of_ne_zero hm) _).2.1

theorem rule_cursor (h : ruleOf i s = .ok t)
    (hk : i = .brAlign → ∃ k, cursor s ≤ k * s.arg.toNat ∧ k * s.arg.toNat < 2 ^ 32) : cursor s ≤ cursor t := by
  cases i with
  | nop | init => cases h; exact le_rfl
  | decodeFrame =>
    obtain ⟨hbytes, hpos⟩ := decodeFrameRule_end h
    have hle : (s.brPos.toNat : Int) ≤ t.brPos.toNat := by omega
    exact_mod_cast hle
  | brPeek n => obtain ⟨-, rfl⟩ := brPeekRule_shape h; exact le_rfl
  | brRead n | brReadOb n =>
    obtain ⟨hr, rfl⟩ := brReadRule_shape h
    exact cursor_le_of_reads rfl (Nat.le_add_right _ _) (endsReadable_of_readable hr le_rfl)
  | brReadSigned n =>
    obtain ⟨hr, rfl⟩ := brReadSignedRule_shape h
    exact cursor_le_of_reads rfl (Nat.le_add_right _ _) (endsReadable_of_readable hr le_rfl)
  | brAlign => exact brAlignRule_cursor h (hk rfl)
  | huffDecode id =>
    simp only [ruleOf, huffDecodeRule, bind_ok] at h
    obtain ⟨v, hv, h⟩ := h
    cases h
    exact cursor_le_of_reads rfl (huffAt_advances hv).1 (huffAt_endsReadable hv)
  | parseHeader =>
    obtain ⟨hs, ho⟩ := onward_parseHeaderRule h
    exact cursor_le_of_onward ho hs
  | parseBand =>
    simp only [ruleOf, parseBandRule, bind_ok] at h
    obtain ⟨coded, hcoded, flag, hflag, h⟩ := h
    split at h <;> cases h
    exact cursor_le_of_reads rfl ((read_advances hcoded).trans (read_advances hflag)).1
      ((read_endsReadable hcoded).trans (read_endsReadable hflag))
  | parseGradient =>
    have ho := onward_parseGradientRule h
    simp only [ruleOf, parseGradientRule, bind_ok] at h
    obtain ⟨gmode, hgmode, -⟩ := h
    exact cursor_le_of_onward ho (cursor_le_limit_of_read (by decide) hgmode)
  | gradientBuild => obtain ⟨_, rfl⟩ := gradientBuildRule_shape h; exact le_rfl
  | pmaskBuild c => obtain ⟨-, rfl⟩ := pmaskBuildRule_shape h; exact cursor_le_of_brPos_eq (setChan_brPos s c _)
  | precisionCalc c =>
    obtain ⟨_, _, rfl⟩ := precisionCalcRule_shape h; exact cursor_le_of_brPos_eq (setChan_brPos s c _)
  | sfDecode c l =>
    have ho := onward_sfDecodeRule h
    simp only [ruleOf, sfDecodeRule, bind_ok] at h
    obtain ⟨-, -, mode, hmode, -⟩ := h
    exact cursor_le_of_onward ho (cursor_le_limit_of_read (by decide) hmode)
  | specDecode c =>
    simp only [ruleOf, specDecodeRule, bind_ok] at h
    obtain ⟨-, -, r, hr, h⟩ := h
    cases h
    exact cursor_le_of_reads rfl (specUnits_advances hr).1 (specUnits_endsReadable hr)
  | specFineDecode c =>
    simp only [ruleOf, specFineDecodeRule, bind_ok] at h
    obtain ⟨-, -, r, hr, h⟩ := h
    cases h
    exact cursor_le_of_reads rfl (fineUnits_advances hr).1 (fineUnits_endsReadable hr)
  | dequant c => obtain ⟨_, rfl⟩ := dequantRule_shape h; exact cursor_le_of_brPos_eq (setChan_brPos s c _)
  | scale c => obtain ⟨_, rfl⟩ := scaleRule_shape h; exact cursor_le_of_brPos_eq (setChan_brPos s c _)
  | imdct c => obtain ⟨_, _, rfl⟩ := imdctRule_shape h; exact cursor_le_of_brPos_eq (setChan_brPos s c _)
  | pcmOut => obtain ⟨-, -, -, rfl⟩ := pcmOutRule_shape h; exact le_rfl

/-- Settles O58: a command that ends without an error ends its rule, whose reads go forward. -/
theorem theCursorNeverMovesBack : Obligations.TheCursorNeverMovesBack := by
  intro i s t h hs ht hk
  obtain ⟨u, hu, rfl⟩ | ⟨e, -, rfl⟩ | ⟨-, -, rfl⟩ | ⟨-, rfl⟩ := exec_cases h
  · exact (rule_cursor hu hk).trans_eq (by rw [cursor, cursor, complete_brPos])
  · cases ht
  · cases ht
  · cases ht

end Sys2Proof.Proofs.Cursor
end

section
/-! Fields read one after the other: the values they give, and `OVERRUN` at the first one that crosses the limit, with the
cursor at its start (R110 to R112, log 4). -/

namespace Sys2Proof.Proofs.FieldReads

open Sys2Proof.Machine Sys2Proof.Claims Sys2Proof.Proofs.Commands Sys2Proof.Proofs.Frame

variable {α β : Type} {s : State} {i : Instr} {p n limit : Nat} {ns ms : List Nat}

/-! ### Where a run of fields fails -/

/-- The error of fields `ns` read from `p`, one of which crosses the limit. -/
def overrunOf (s : State) (ns : List Nat) (p : Nat) : Raise :=
  ⟨.overrun, max p s.limitBits, failingField s.limitBits ns p⟩

/-- Fields `ns` from `p` on are of no bits, or end below the limit. -/
def fits (s : State) (ns : List Nat) (p : Nat) : Prop := ns.sum = 0 ∨ p + ns.sum ≤ s.limitBits

theorem failingField_append_of_fits (h : ns.sum = 0 ∨ p + ns.sum ≤ limit) (ms : List Nat) :
    failingField limit (ns ++ ms) p = failingField limit ms (p + ns.sum) := by
  induction ns generalizing p with
  | nil => rfl
  | cons n ns ih =>
    rw [List.sum_cons] at h ⊢
    rw [List.cons_append, failingField, if_neg (by omega), ih (by omega), Nat.add_assoc]

theorem failingField_append_of_not_fits (h : ¬(ns.sum = 0 ∨ p + ns.sum ≤ limit)) (ms : List Nat) :
    failingField limit (ns ++ ms) p = failingField limit ns p := by
  induction ns generalizing p with
  | nil => simp at h
  | cons n ns ih =>
    rw [List.sum_cons] at h
    rw [List.cons_append, failingField, failingField]
    split
    · rfl
    · exact ih (by omega)

/-- The field that fails is the first of all, or starts below the limit. -/
theorem failingField_le (h : ¬(ns.sum = 0 ∨ p + ns.sum ≤ limit)) :
    failingField limit ns p = p ∨ failingField limit ns p ≤ limit := by
  induction ns generalizing p with
  | nil => simp at h
  | cons n ns ih =>
    rw [List.sum_cons] at h
    rw [failingField]
    split
    · exact .inl rfl
    · have := ih (p := p + n) (by omega)
      omega

theorem overrunOf_append_of_fits (h : fits s ns p) (ms : List Nat) :
    overrunOf s (ns ++ ms) p = overrunOf s ms (p + ns.sum) := by
  have hmax : max p s.limitBits = max (p + ns.sum) s.limitBits := by unfold fits at h; omega
  rw [overrunOf, overrunOf, failingField_append_of_fits h, hmax]

theorem overrunOf_append_of_not_fits (h : ¬fits s ns p) (ms : List Nat) :
    overrunOf s (ns ++ ms) p = overrunOf s ns p := by
  rw [overrunOf, overrunOf, failingField_append_of_not_fits h]

/-! ### Operations that read a run of fields -/

/-- Fields `ns`, read from `p` by `x`: when they do not fit, `x` is their overrun. -/
def OverrunsAs (s : State) (ns : List Nat) (p : Nat) (x : Except Raise α) : Prop :=
  ¬fits s ns p → x = .error (overrunOf s ns p)

theorem fits_singleton : fits s [n] p ↔ n = 0 ∨ p + n ≤ s.limitBits := by simp [fits]

theorem fits_append : fits s (ns ++ ms) p ↔ fits s ns p ∧ fits s ms (p + ns.sum) := by
  simp only [fits, List.sum_append]
  omega

theorem overrunsAs_nil (x : Except Raise α) : OverrunsAs s [] p x := fun h => absurd (.inl rfl) h

/-- What follows a read that fails does not matter. -/
theorem OverrunsAs.bind {x : Except Raise α} (h : OverrunsAs s ns p x) (f : α → Except Raise β) :
    OverrunsAs s ns p (x >>= f) := fun hf => by rw [h hf, error_bind]

/-- Two runs of fields, the second read once the first one has fitted. -/
theorem OverrunsAs.append {x : Except Raise α} (h : OverrunsAs s ns p x) {f : α → Except Raise β}
    (hf : fits s ns p → OverrunsAs s ms (p + ns.sum) (x >>= f)) : OverrunsAs s (ns ++ ms) p (x >>= f) := by
  intro hnot
  by_cases hns : fits s ns p
  · rw [overrunOf_append_of_fits hns]
    exact hf hns (fun hms => hnot (fits_append.mpr ⟨hns, hms⟩))
  · rw [overrunOf_append_of_not_fits hns]
    exact h.bind f hns

theorem read_overrunsAs (hn : n ≤ 32) (p : Nat) : OverrunsAs s [n] p (s.read p n) := by
  intro h
  rw [fits_singleton] at h
  rw [State.read, peek_overrun (by omega) hn (by omega), error_bind, overrunOf, failingField, if_pos (by omega)]

theorem read_of_fits (hn : n ≤ 32) (h : fits s [n] p) : s.read p n = .ok (s.field p n, p + n) :=
  read_ok ⟨hn, fits_singleton.mp h⟩

/-- One field, then what is read once it has fitted. -/
theorem overrunsAs_read_bind (hn : n ≤ 32) {f : Nat × Nat → Except Raise β}
    (hf : fits s [n] p → OverrunsAs s ns (p + n) (f (s.field p n, p + n))) :
    OverrunsAs s (n :: ns) p (s.read p n >>= f) := by
  refine (read_overrunsAs hn p).append (ns := [n]) fun h => ?_
  rw [read_of_fits hn h, ok_bind, List.sum_singleton]
  exact hf h

theorem readMany_overrunsAs (hn : n ≤ 32) (k p : Nat) : OverrunsAs s (List.replicate k n) p (s.readMany n k p) := by
  induction k generalizing p with
  | zero => exact overrunsAs_nil _
  | succ k ih => exact overrunsAs_read_bind hn fun _ => (ih (p + n)).bind _

theorem readSigned_eq (s : State) (p n : Nat) :
    s.readSigned p n = s.read p n >>= fun r => .ok (sext n r.1, r.2) := rfl

theorem readManySigned_overrunsAs (hn : n ≤ 32) (k p : Nat) :
    OverrunsAs s (List.replicate k n) p (s.readManySigned n k p) := by
  induction k generalizing p with
  | zero => exact overrunsAs_nil _
  | succ k ih =>
    rw [State.readManySigned, readSigned_eq, bind_assoc]
    exact overrunsAs_read_bind hn fun _ => (ih (p + n)).bind _

/-! ### The values of fields of one width (R87, R89) -/

theorem readMany_of_fits (hn : n ≤ 32) {k : Nat} (h : fits s (List.replicate k n) p) :
    s.readMany n k p = .ok ((List.range k).map (fun j => s.field (p + n * j) n), p + n * k) := by
  induction k generalizing p with
  | zero => rfl
  | succ k ih =>
    rw [List.replicate_succ, ← List.singleton_append, fits_append, List.sum_singleton] at h
    obtain ⟨hfirst, hrest⟩ := h
    rw [State.readMany, read_of_fits hn hfirst, ok_bind, ih hrest, ok_bind, pure_eq_ok, List.range_succ_eq_map,
      List.map_cons, List.map_map]
    congr 3
    · exact List.map_congr_left fun j _ => by simp only [Function.comp, Nat.mul_succ]; congr 1; omega
    · rw [Nat.mul_succ]; omega

theorem readManySigned_of_fits (hn : n ≤ 32) {k : Nat} (h : fits s (List.replicate k n) p) :
    s.readManySigned n k p =
      .ok ((List.range k).map (fun j => signed n (s.field (p + n * j) n)), p + n * k) := by
  induction k generalizing p with
  | zero => rfl
  | succ k ih =>
    rw [List.replicate_succ, ← List.singleton_append, fits_append, List.sum_singleton] at h
    obtain ⟨hfirst, hrest⟩ := h
    rw [State.readManySigned, readSigned_ok ⟨hn, fits_singleton.mp hfirst⟩, ok_bind, ih hrest, ok_bind, pure_eq_ok,
      List.range_succ_eq_map, List.map_cons, List.map_map, Huffman.sext_eq_signed (field_lt s p n)]
    congr 3
    · exact List.map_congr_left fun j _ => by simp only [Function.comp, Nat.mul_succ]; congr 2; omega
    · rw [Nat.mul_succ]; omega

/-! ### A command that overruns (R110, R112, R276) -/

theorem exec_overruns (hs : s.status.initDone = true) (ho : operandsOk i = true) (hm : movesCursor i)
    (h : OverrunsAs s ns (cursor s) (ruleOf i s)) (hnot : ¬fits s ns (cursor s)) :
    ∃ t, exec i s = .next t ∧ overruns s t ns := by
  have hc : failingField s.limitBits ns (cursor s) < 2 ^ 32 := by
    obtain h | h := failingField_le hnot
    · rw [h]
      exact s.brPos.isLt
    · have := limitBits_le s
      omega
  obtain ⟨t, ht, hrep, hpos⟩ := exec_reports_reader hs ho hm (h hnot) rfl hc
  exact ⟨t, ht, hrep, hpos⟩

end Sys2Proof.Proofs.FieldReads
end

section
/-! The bit reader commands and the errors of a Huffman code (R110 to R120, R133, R134). -/

namespace Sys2Proof.Proofs.Reader

open Sys2Proof.Machine Sys2Proof.Claims Sys2Proof.Proofs.Commands Sys2Proof.Proofs.FieldReads Sys2Proof.Proofs.Huffman
  Sys2Proof.Proofs.Cursor

variable {s s' t : State} {i : Instr} {n p id : Nat}

/-! ### The bits of a field (R63) -/

theorem streamBit_eq (s : State) (p : Nat) : s.streamBit p = (inputBit s p).toNat := by
  rw [State.streamBit, inputBit]
  cases (s.inByte (p / 8)).getLsbD (7 - p % 8) <;> rfl

theorem field_testBit (s : State) (p : Nat) {n j : Nat} (h : j < n) :
    (s.field p n).testBit (n - 1 - j) = inputBit s (p + j) := by
  induction n with
  | zero => omega
  | succ n ih =>
    have hbit := streamBit_le s (p + n)
    rw [State.field]
    obtain rfl | hj := Nat.eq_or_lt_of_le (Nat.lt_succ_iff.mp h)
    · rw [Nat.add_sub_cancel, Nat.sub_self, Nat.testBit_zero, streamBit_eq]
      cases inputBit s (p + j) <;> simp [Nat.add_mod]
    · rw [show n + 1 - 1 - j = n - 1 - j + 1 by omega, Nat.testBit_succ, ← ih hj]
      congr 1
      omega

/-- A field is the number that its bits are. -/
theorem field_congr_bits (h : ∀ j, j < n → inputBit s (p + j) = inputBit s' (p + j)) : s.field p n = s'.field p n := by
  induction n with
  | zero => rfl
  | succ n ih =>
    rw [State.field, State.field, ih fun j hj => h j (by omega), streamBit_eq, streamBit_eq, h n (Nat.lt_succ_self n)]

/-- Settles O21: a readable field is read whole. -/
theorem bitReadsReturnTheFieldMostSignificantBitFirst : Obligations.BitReadsReturnTheFieldMostSignificantBitFirst := by
  intro s n hs hn hfit
  have hr : s.readable (cursor s) n := ⟨hn, hfit⟩
  have hlt := field_lt s (cursor s) n
  have hread := read_ok hr
  have hpeek : brPeekRule n s = .ok { s with result := BitVec.ofNat 32 (s.field (cursor s) n) } := by
    rw [brPeekRule, peek_ok hr]
    rfl
  have hunsigned : brReadRule n s = .ok { s with
      result := BitVec.ofNat 32 (s.field (cursor s) n), brPos := BitVec.ofNat 32 (cursor s + n) } := by
    rw [brReadRule, hread]
    rfl
  have hsigned : brReadSignedRule n s = .ok { s with
      result := BitVec.ofInt 32 (signed n (s.field (cursor s) n)), brPos := BitVec.ofNat 32 (cursor s + n) } := by
    rw [brReadSignedRule, readSigned_ok hr, sext_eq_signed hlt]
    rfl
  exact ⟨s.field (cursor s) n, hlt, fun j hj => field_testBit s _ hj, exec_ok hs rfl hpeek, exec_ok hs rfl hunsigned,
    exec_ok hs rfl hunsigned, exec_ok hs rfl hsigned⟩

/-! ### Widths above 32 and fields across the limit (R111, R112) -/

/-- The commands that read or peek `n` bits raise what the peek raises. -/
theorem rule_error_of_peek {e : Raise} (hi : i ∈ [.brPeek n, .brRead n, .brReadSigned n, .brReadOb n])
    (h : s.peek (cursor s) n = .error e) : ruleOf i s = .error e ∧ operandsOk i = true := by
  have hread : s.read (cursor s) n = .error e := by rw [State.read, h, error_bind]
  simp only [List.mem_cons, List.not_mem_nil, or_false] at hi
  obtain rfl | rfl | rfl | rfl := hi
  · exact ⟨by rw [ruleOf, brPeekRule, h, error_bind], rfl⟩
  · exact ⟨by rw [ruleOf, brReadRule, hread, error_bind], rfl⟩
  · exact ⟨by rw [ruleOf, brReadSignedRule, readSigned_eq, hread]; rfl, rfl⟩
  · exact ⟨by rw [ruleOf, brReadRule, hread, error_bind], rfl⟩

/-- An error of the bit reader at the cursor leaves it alone. -/
theorem unspec_brPos_of_reader {e : Raise} (hi : i ∈ [.brPeek n, .brRead n, .brReadSigned n, .brReadOb n])
    (he : e.err.ofReader = true) (hc : e.cursor = cursor s) : (unspecOf i e s).brPos = s.brPos := by
  have hcursor := cursorAfter_first he hc
  simp only [List.mem_cons, List.not_mem_nil, or_false] at hi
  obtain rfl | rfl | rfl | rfl := hi
  · rfl
  all_goals exact hcursor

/-- Settles O22: the peek raises before anything is stored. -/
theorem badWidthsAndOverrunsLeaveTheCursor : Obligations.BadWidthsAndOverrunsLeaveTheCursor := by
  intro s n i hs hi
  have key {e : Raise} (h : s.peek (cursor s) n = .error e) :
      ∃ t, exec i s = .next t ∧ reports s t e.err.code e.pos ∧ t.brPos = s.brPos := by
    obtain ⟨hrule, ho⟩ := rule_error_of_peek hi h
    obtain ⟨t, ht, hrep, hpos⟩ := exec_reports hs ho hrule
    obtain ⟨he, hc⟩ := peek_error h
    exact ⟨t, ht, hrep, hpos.trans (unspec_brPos_of_reader hi he hc)⟩
  exact ⟨fun hn => key (peek_badWidth hn), fun hn hpos hlim => key (peek_overrun (by omega) hn hlim)⟩

/-! ### A run of reads (R120) -/

theorem exec_read_cursor (hi : Claims.reads i n) (h : exec i s = .next t) (ht : t.status.err = false) :
    t.brPos.toNat = s.brPos.toNat + n := by
  have key {q : Word} (hr : s.readable (cursor s) n) (hq : q = Word.ofNat (cursor s + n)) : q.toNat = cursor s + n := by
    have hlt : cursor s + n < 2 ^ 32 := by
      have := Frame.limitBits_le s
      have := s.brPos.isLt
      obtain ⟨-, rfl | h⟩ := hr <;> omega
    rw [hq, Word.ofNat, BitVec.toNat_ofNat, Nat.mod_eq_of_lt hlt]
  obtain ⟨u, hu, rfl⟩ | ⟨e, -, rfl⟩ | ⟨-, -, rfl⟩ | ⟨-, rfl⟩ := exec_cases h
  · obtain rfl | rfl | rfl := hi
    · obtain ⟨hr, rfl⟩ := brReadRule_shape hu
      exact key hr rfl
    · obtain ⟨hr, rfl⟩ := brReadSignedRule_shape hu
      exact key hr rfl
    · obtain ⟨hr, rfl⟩ := brReadRule_shape hu
      exact key hr rfl
  all_goals cases ht

theorem exec_brPeek_result (h : exec (.brPeek n) s = .next t) (ht : t.status.err = false) :
    t.result = Word.ofNat (s.field (cursor s) n) := by
  obtain ⟨u, hu, rfl⟩ | ⟨e, -, rfl⟩ | ⟨-, -, rfl⟩ | ⟨-, rfl⟩ := exec_cases h
  · obtain ⟨-, rfl⟩ := brPeekRule_shape hu
    rfl
  all_goals cases ht

/-- Settles O23: every read advances by its width, and a peek answers its field. -/
theorem readsAdvanceByTheirTotalWidth : Obligations.ReadsAdvanceByTheirTotalWidth := by
  refine ⟨fun s t n h => (CommandFrames.exec_brPeek_writes h).2, fun ns => ?_, ?_⟩
  · induction ns with
    | nil => rintro s t rfl; rfl
    | cons n ns ih =>
      rintro s t ⟨i, u, hi, hu, herr, hrest⟩
      rw [ih u t hrest, exec_read_cursor hi hu herr, List.sum_cons, Nat.add_assoc]
  · intro s s' t t' n hpos hbits h h' _ _ ht ht'
    rw [exec_brPeek_result h ht, exec_brPeek_result h' ht', field_congr_bits hbits, cursor, cursor, hpos]

/-! ### Alignment (R114, R119) -/

theorem brAlignRule_ok (h0 : s.argNat ≠ 0) (hle : s.argNat ≤ 2 ^ 31) (hlt : alignUp s.argNat (cursor s) < 2 ^ 32) :
    brAlignRule s = .ok (s.setBrPos (alignUp s.argNat (cursor s))) := by
  rw [brAlignRule, if_neg (by omega), alignPos_ok h0, ok_bind, if_pos hlt]
  rfl

theorem brAlignRule_badWidth (h : s.argNat = 0 ∨ 2 ^ 31 < s.argNat) :
    brAlignRule s = .error (s.raiseHere .badWidth) := by
  by_cases hgt : 2 ^ 31 < s.argNat
  · rw [brAlignRule, if_pos hgt]
  · rw [brAlignRule, if_neg hgt, alignPos, if_pos (h.resolve_right hgt), error_bind]
    rfl

/-- Settles O24: the aligned position is the least multiple, which fits when any does. -/
theorem alignMovesToTheNextMultiple : Obligations.AlignMovesToTheNextMultiple := by
  intro s hs
  constructor
  · rintro hpos hle ⟨k, hk, hlt⟩
    obtain ⟨hdvd, hge, hnext⟩ := alignUp_spec hpos (cursor s)
    have hfit := (alignUp_le_multiple hpos hk).trans_lt hlt
    have hcursor : cursor (s.setBrPos (alignUp s.argNat (cursor s))).complete = alignUp s.argNat (cursor s) :=
      (BitVec.toNat_ofNat _ _).trans (Nat.mod_eq_of_lt hfit)
    refine ⟨_, exec_ok hs rfl (brAlignRule_ok hpos.ne' hle hfit), ?_⟩
    rw [hcursor]
    exact ⟨hdvd, hge, hnext, rfl⟩
  · intro h
    refine ⟨_, exec_error hs rfl (brAlignRule_badWidth h), Common.reports_fail (unspec_keeps _ _ s), ?_⟩
    rw [State.fail, unspecOf, unspecAlign, cursorAfter_first rfl rfl]
    rfl

/-! ### A code that cannot be decoded (R133) -/

theorem isEmpty_iff {t : HuffTable} : t.isEmpty = true ↔ ∀ b ∈ t.bits, b = 0 := by
  simp [HuffTable.isEmpty]

theorem isEmpty_eq_false_iff {t : HuffTable} : t.isEmpty = false ↔ ∃ b ∈ t.bits, b ≠ 0 := by
  simp [HuffTable.isEmpty]

/-- The error of `HuffDecode` at a position where no code can be decoded. -/
theorem huffAt_of_codeFails {code : BitVec 8} {pos : Nat} (hl : lutsHold s) (hid : id ≤ 12)
    (h : codeFails s id p code pos) : ∃ e : ErrCode, s.huffAt p id = .error ⟨e, pos, p⟩ ∧ e.code = code ∧
      e.ofReader = true := by
  have hwf := wellFormedCodebook_huff s.cfg hid
  obtain ⟨hzero, rfl, rfl⟩ | ⟨hne, hlim, rfl, rfl⟩ | ⟨hne, hlim, hnone, rfl, rfl⟩ := h
  · refine ⟨.badTable, ?_, rfl, rfl⟩
    rw [State.huffAt, if_pos (isEmpty_iff.mpr hzero)]
    rfl
  · have hmaxb : (s.rom.huff id).maxb ≠ 0 := by
      obtain ⟨b, hb, hb0⟩ := hne
      have := hwf.bits_le b hb
      exact fun h => hb0 (Nat.le_zero.mp (this.trans_eq h))
    refine ⟨.overrun, ?_, rfl, rfl⟩
    rw [State.huffAt, if_neg (by simp [isEmpty_eq_false_iff.mpr hne]), peek_overrun hmaxb hwf.maxb_le hlim, error_bind]
  · refine ⟨.huffInvalid, ?_, rfl, rfl⟩
    have hlook : lutLookup (s.hlut.getD id []) (s.field pos (s.rom.huff id).maxb) = none := by
      refine Option.eq_none_iff_forall_ne_some.mpr fun i hi => ?_
      obtain ⟨hused, hcov⟩ := (hl id hid _ (field_lt s pos _) i).mp hi
      exact hnone i hused hcov
    rw [State.huffAt, if_neg (by simp [isEmpty_eq_false_iff.mpr hne]), peek_ok ⟨hwf.maxb_le, .inr hlim⟩, ok_bind, hlook]
    rfl

/-- Settles O26: the three ways in which a code cannot be decoded. -/
theorem huffmanErrorsLeaveTheCursor : Obligations.HuffmanErrorsLeaveTheCursor := by
  intro s id hs hl hid
  have key {code : BitVec 8} {pos : Nat} (h : codeFails s id (cursor s) code pos) :
      ∃ t, exec (.huffDecode id) s = .next t ∧ reports s t code pos ∧ t.brPos = s.brPos := by
    obtain ⟨e, herr, rfl, he⟩ := huffAt_of_codeFails hl hid h
    have hrule : ruleOf (.huffDecode id) s = .error ⟨e, pos, cursor s⟩ := by
      rw [ruleOf, huffDecodeRule, herr, error_bind]
    obtain ⟨t, ht, hrep, hpos⟩ := exec_reports hs (show operandsOk (.huffDecode id) = true from decide_eq_true hid) hrule
    exact ⟨t, ht, hrep, hpos.trans (cursorAfter_first he rfl)⟩
  exact ⟨fun hzero => key (.inl ⟨hzero, rfl, rfl⟩), fun hne hlim => key (.inr (.inl ⟨hne, hlim, rfl, rfl⟩)),
    fun hne hlim hnone => key (.inr (.inr ⟨hne, hlim, hnone, rfl, rfl⟩))⟩

end Sys2Proof.Proofs.Reader
end

section
/-! The field commands `PARSE_HEADER`, `PARSE_BAND` and `PARSE_GRADIENT` (R244 to R249), and what a failed frame leaves
(R259). -/

namespace Sys2Proof.Proofs.Fields

open Sys2Proof.Machine Sys2Proof.Claims Sys2Proof.Proofs.Commands Sys2Proof.Proofs.FieldReads Sys2Proof.Proofs.Parameters
  Sys2Proof.Proofs.CommandFrames

variable {s t : State} {n p w : Nat}

/-! ### Fields and the registers that hold them -/

theorem read_below (hn : n ≤ 32) (h : p + n ≤ s.limitBits) : s.read p n = .ok (s.field p n, p + n) :=
  read_ok ⟨hn, .inr h⟩

theorem toNat_ofNat_field (s : State) (p : Nat) (h : n ≤ w) : (BitVec.ofNat w (s.field p n)).toNat = s.field p n := by
  rw [BitVec.toNat_ofNat, Nat.mod_eq_of_lt ((field_lt s p n).trans_le (Nat.pow_le_pow_right (by decide) h))]

theorem toNat_ofNat_field_add (s : State) (p : Nat) {k : Nat} (h : 2 ^ n - 1 + k < 2 ^ w) :
    (BitVec.ofNat w (s.field p n + k)).toNat = s.field p n + k := by
  have := field_lt s p n
  rw [BitVec.toNat_ofNat, Nat.mod_eq_of_lt (by omega)]

theorem toNat_ofNat_position (h : p ≤ s.limitBits) : (BitVec.ofNat 32 p).toNat = p := by
  have := Frame.limitBits_le s
  rw [BitVec.toNat_ofNat, Nat.mod_eq_of_lt (by omega)]

/-! ### `PARSE_HEADER` (R244) -/

theorem movesCursor_parseHeader : movesCursor .parseHeader := by
  intro s e he
  have hne : e.err ≠ .sync := by rintro h; rw [h] at he; cases he
  simp only [unspecOf, unspecHeader, if_neg hne, freeHeader]

section
variable {p1 p2 p3 p4 stop : Nat} (h1 : p1 = cursor s + 8) (h2 : p2 = p1 + s.rom.sridBits)
  (h3 : p3 = p2 + s.rom.ccidBits) (h4 : p4 = p3 + s.rom.flenBits) (h5 : stop = p4 + s.rom.fstatBits)
include h1 h2 h3 h4 h5

/-- The reads of a readable header. -/
theorem header_reads (hstop : stop ≤ s.limitBits) :
    s.read (cursor s) Config.syncBits = .ok (s.field (cursor s) 8, p1) ∧
    s.read p1 s.rom.sridBits = .ok (s.field p1 s.rom.sridBits, p2) ∧
    s.read p2 s.rom.ccidBits = .ok (s.field p2 s.rom.ccidBits, p3) ∧
    s.read p3 s.rom.flenBits = .ok (s.field p3 s.rom.flenBits, p4) ∧
    s.read p4 s.rom.fstatBits = .ok (s.field p4 s.rom.fstatBits, stop) := by
  obtain ⟨hsrid, hccid, hflen, hfstat, -⟩ := romBounds s
  subst h5 h4 h3 h2 h1
  exact ⟨read_below (by decide) (by simp only [Config.syncBits]; omega), read_below (by omega) (by omega),
    read_below (by omega) (by omega), read_below (by omega) (by omega), read_below (by omega) (by omega)⟩

theorem parseHeaderRule_ok (hstop : stop ≤ s.limitBits) (hsync : s.field (cursor s) 8 = s.rom.syncWord) {fb : Nat}
    {e : CcidEntry} (hfb : s.rom.fbits (s.field p1 s.rom.sridBits) = some fb)
    (he : s.rom.ccid (s.field p2 s.rom.ccidBits) = some e) :
    parseHeaderRule s = .ok ((setHeader (s.field p1 s.rom.sridBits) fb (s.field p2 s.rom.ccidBits)
      (s.field p3 s.rom.flenBits) (s.field p4 s.rom.fstatBits) e s).setBrPos stop) := by
  obtain ⟨hr0, hr1, hr2, hr3, hr4⟩ := header_reads h1 h2 h3 h4 h5 hstop
  simp only [parseHeaderRule, hr0, hr1, hr2, hr3, hr4, ok_bind, hsync, hfb, he, ne_eq, not_true_eq_false, if_false,
    pure_eq_ok]

theorem parseHeaderRule_indexRange (hstop : stop ≤ s.limitBits) (hsync : s.field (cursor s) 8 = s.rom.syncWord)
    (h : s.rom.fbits (s.field p1 s.rom.sridBits) = none ∨ s.rom.ccid (s.field p2 s.rom.ccidBits) = none) :
    parseHeaderRule s = .error (raiseAt .indexRange stop) := by
  obtain ⟨hr0, hr1, hr2, hr3, hr4⟩ := header_reads h1 h2 h3 h4 h5 hstop
  simp only [parseHeaderRule, hr0, hr1, hr2, hr3, hr4, ok_bind, hsync, ne_eq, not_true_eq_false, if_false]
  cases hfb : s.rom.fbits (s.field p1 s.rom.sridBits) with
  | none => rfl
  | some fb => simp only [h.resolve_left (by simp [hfb])]

end

/-- A header that does not fit overruns, if its sync field does or has the sync value. -/
theorem parseHeaderRule_overrunsAs
    (h : s.limitBits < cursor s + 8 ∨ s.field (cursor s) 8 = s.rom.syncWord) :
    OverrunsAs s (headerFields s.rom) (cursor s) (parseHeaderRule s) := by
  obtain ⟨hsrid, hccid, hflen, hfstat, -⟩ := romBounds s
  refine overrunsAs_read_bind (by decide) fun hfit => ?_
  rw [fits_singleton] at hfit
  rw [if_neg (not_not.mpr (h.resolve_left (by omega)))]
  exact overrunsAs_read_bind (hsrid.trans (by decide)) fun _ => overrunsAs_read_bind (hccid.trans (by decide)) fun _ =>
    overrunsAs_read_bind (hflen.trans (by decide)) fun _ => (read_overrunsAs (hfstat.trans (by decide)) _).bind _

theorem not_fits_header
    (h : s.limitBits < cursor s + 8 ∨ s.limitBits < cursor s + (headerFields s.rom).sum) :
    ¬fits s (headerFields s.rom) (cursor s) := by
  simp only [fits, headerFields, List.sum_cons] at h ⊢
  omega

/-- Settles O27: the header's fields in order, or the first of its errors. -/
theorem parseHeaderStoresTheHeaderFields : Obligations.ParseHeaderStoresTheHeaderFields := by
  intro s p1 p2 p3 p4 stop hs h1 h2 h3 h4 h5
  refine ⟨fun hstop hsync => ⟨fun fb e hfb he => ?ok, fun hnone => ?index⟩, fun h => ?overrun⟩
  case ok =>
    have hb := romBounds s
    obtain ⟨hmapf, hmapc⟩ := header_maps s.cfg.ok
    have hfb16 : fb < 2 ^ 4 := by obtain rfl | rfl := hmapf _ _ hfb <;> decide
    have hnch : e.nch < 2 ^ 2 := by obtain h | h := hmapc _ _ he <;> rw [h] <;> decide
    have hmb : (BitVec.ofNat 4 fb).toNat = fb := by rw [BitVec.toNat_ofNat, Nat.mod_eq_of_lt hfb16]
    exact ⟨_, exec_ok hs rfl (parseHeaderRule_ok h1 h2 h3 h4 h5 hstop hsync hfb he), toNat_ofNat_field s _ hb.srid,
      toNat_ofNat_field s _ hb.ccid, toNat_ofNat_field s _ hb.fstat, toNat_ofNat_field_add s _ hb.flenFits,
      (BitVec.toNat_ofNat _ _).trans (Nat.mod_eq_of_lt hnch), hmb, hmb, hmb, toNat_ofNat_position hstop, rfl⟩
  case index =>
    obtain ⟨t, ht, hrep, -⟩ := exec_reports (i := .parseHeader) hs rfl (parseHeaderRule_indexRange h1 h2 h3 h4 h5 hstop hsync hnone)
    exact ⟨t, ht, hrep⟩
  case overrun =>
    have hsum : cursor s + (headerFields s.rom).sum = stop := by
      simp only [headerFields, List.sum_cons, List.sum_nil]
      omega
    exact exec_overruns hs rfl movesCursor_parseHeader (parseHeaderRule_overrunsAs (by omega))
      (not_fits_header (by omega))

/-! ### `PARSE_BAND` (R247) -/

theorem nqu_bounds {nb nqu : Nat} (h : s.rom.nquRom[nb]? = some nqu) : nb < 256 ∧ nqu ≤ 34 := by
  have hb := romBounds s
  obtain ⟨hlt, rfl⟩ := List.getElem?_eq_some_iff.mp h
  exact ⟨hlt.trans_le hb.nquLength, hb.nquEntry _ (List.getElem_mem hlt)⟩

section
variable {nb : Nat} (hnb : nb = s.field (cursor s) s.rom.bandBits + s.rom.bandOffset)
  (hband : s.readable (cursor s) s.rom.bandBits) (hflag : s.readable (cursor s + s.rom.bandBits) s.rom.bandFlagBits)
include hnb hband hflag

theorem parseBandRule_ok {nqu : Nat} (h : s.rom.nquRom[nb]? = some nqu) :
    parseBandRule s = .ok { s with
      geom := { s.geom with nbands := BitVec.ofNat 8 nb, nqu := BitVec.ofNat 8 nqu }
      brPos := Word.ofNat (cursor s + s.rom.bandBits + s.rom.bandFlagBits) } := by
  simp only [parseBandRule, read_ok hband, read_ok hflag, ok_bind, ← hnb, h, pure_eq_ok]

theorem parseBandRule_indexRange (h : s.rom.nquRom[nb]? = none) :
    parseBandRule s = .error (raiseAt .indexRange (cursor s + s.rom.bandBits + s.rom.bandFlagBits)) := by
  simp only [parseBandRule, read_ok hband, read_ok hflag, ok_bind, ← hnb, h]

end

theorem parseBandRule_overrunsAs (s : State) :
    OverrunsAs s [s.rom.bandBits, s.rom.bandFlagBits] (cursor s) (parseBandRule s) := by
  have hb := romBounds s
  exact overrunsAs_read_bind hb.band fun _ => (read_overrunsAs hb.bandFlag _).bind _

/-- Settles O29: the band count, its entry, and the flag that is skipped. -/
theorem parseBandStoresBandAndUnitCounts : Obligations.ParseBandStoresBandAndUnitCounts := by
  intro s nb hs hnb
  refine ⟨fun hband hflag => ⟨fun nqu hnqu => ?_, fun hnone => ?_⟩, fun hpos hlim => ?_⟩
  · obtain ⟨hlt, hle⟩ := nqu_bounds hnqu
    exact ⟨_, exec_ok hs rfl (parseBandRule_ok hnb hband hflag hnqu), (BitVec.toNat_ofNat _ _).trans (Nat.mod_eq_of_lt hlt),
      (BitVec.toNat_ofNat _ _).trans (Nat.mod_eq_of_lt (by omega)), rfl⟩
  · obtain ⟨t, ht, hrep, -⟩ := exec_reports (i := .parseBand) hs rfl (parseBandRule_indexRange hnb hband hflag hnone)
    exact ⟨t, ht, hrep⟩
  · refine exec_overruns hs rfl (fun _ _ _ => rfl) (parseBandRule_overrunsAs s) ?_
    simp only [fits, List.sum_cons, List.sum_nil]
    omega

/-! ### `PARSE_GRADIENT` (R248, R249) -/

/-- The mode-dependent fields of a readable gradient description in mode 0. -/
theorem gradientFields_direct {f p q : Nat} (hp : p = f + s.rom.gsu0Bits + s.rom.geu0Bits)
    (hq : q = p + s.rom.gsvBits + s.rom.gevBits) (hlim : q ≤ s.limitBits) :
    s.gradientFields 0 f = .ok ⟨s.field f s.rom.gsu0Bits,
      s.field (f + s.rom.gsu0Bits) s.rom.geu0Bits + s.rom.geu0Offset, s.field p s.rom.gsvBits,
      s.field (p + s.rom.gsvBits) s.rom.gevBits, q⟩ := by
  have hb := romBounds s
  have h8 {n : Nat} (h : n ≤ 8) : n ≤ 32 := h.trans (by decide)
  subst hq hp
  simp only [State.gradientFields, if_true, State.gradientDirect, ok_bind, pure_eq_ok,
    read_below (s := s) (h8 hb.gsu0) (p := f) (by omega), read_below (s := s) (h8 hb.geu0) (p := f + s.rom.gsu0Bits) (by omega),
    read_below (s := s) (h8 hb.gsv) (p := f + s.rom.gsu0Bits + s.rom.geu0Bits) (by omega),
    read_below (s := s) (h8 hb.gev) (p := f + s.rom.gsu0Bits + s.rom.geu0Bits + s.rom.gsvBits) (by omega)]

/-- The same in modes 1 to 3. -/
theorem gradientFields_fixedEnd {mode f p q : Nat} (hmode : mode ≠ 0) (hp : p = f + s.rom.gsu1Bits)
    (hq : q = p + s.rom.gsvBits) (hlim : q ≤ s.limitBits) :
    s.gradientFields mode f = .ok ⟨s.field f s.rom.gsu1Bits, s.rom.gradM1EndUnit, s.field p s.rom.gsvBits, 31, q⟩ := by
  have hb := romBounds s
  have h8 {n : Nat} (h : n ≤ 8) : n ≤ 32 := h.trans (by decide)
  subst hq hp
  simp only [State.gradientFields, if_neg hmode, State.gradientFixedEnd, ok_bind, pure_eq_ok, Config.gradM1EndValue,
    read_below (s := s) (h8 hb.gsu1) (p := f) (by omega), read_below (s := s) (h8 hb.gsv) (p := f + s.rom.gsu1Bits) (by omega)]

theorem parseGradientRule_ok {f : GradientFields} (hmode : cursor s + 2 ≤ s.limitBits)
    (hf : s.gradientFields (s.field (cursor s) 2) (cursor s + 2) = .ok f)
    (hlim : f.pos + s.rom.gbndBits ≤ s.limitBits) :
    parseGradientRule s = .ok { s with
      gparam0 := ⟨BitVec.ofNat 8 (s.field (cursor s) 2), BitVec.ofNat 8 f.gsu, BitVec.ofNat 8 f.geu,
        BitVec.ofNat 8 (s.field f.pos s.rom.gbndBits)⟩
      gparam1 := ⟨BitVec.ofNat 8 f.gsv, BitVec.ofNat 8 f.gev⟩
      brPos := Word.ofNat (f.pos + s.rom.gbndBits) } := by
  have hb := romBounds s
  have hread : s.read (cursor s) Config.gmodeBits = .ok (s.field (cursor s) 2, cursor s + 2) :=
    read_below (by decide) hmode
  simp only [parseGradientRule, hread, ok_bind, hf, read_below (hb.gbnd.trans (by decide)) hlim, pure_eq_ok]

theorem gradientFields_overrunsAs (s : State) (mode f : Nat) :
    OverrunsAs s (if mode = 0 then [s.rom.gsu0Bits, s.rom.geu0Bits, s.rom.gsvBits, s.rom.gevBits]
      else [s.rom.gsu1Bits, s.rom.gsvBits]) f (s.gradientFields mode f) := by
  have hb := romBounds s
  have h8 {n : Nat} (h : n ≤ 8) : n ≤ 32 := h.trans (by decide)
  unfold State.gradientFields
  split
  · exact overrunsAs_read_bind (h8 hb.gsu0) fun _ => overrunsAs_read_bind (h8 hb.geu0) fun _ =>
      overrunsAs_read_bind (h8 hb.gsv) fun _ => (read_overrunsAs (h8 hb.gev) _).bind _
  · exact overrunsAs_read_bind (h8 hb.gsu1) fun _ => (read_overrunsAs (h8 hb.gsv) _).bind _

/-- The mode-dependent fields, where they fit, end after all their bits. -/
theorem gradientFields_of_fits {mode f : Nat}
    (h : fits s (if mode = 0 then [s.rom.gsu0Bits, s.rom.geu0Bits, s.rom.gsvBits, s.rom.gevBits]
      else [s.rom.gsu1Bits, s.rom.gsvBits]) f) (hf : f ≤ s.limitBits) :
    ∃ g, s.gradientFields mode f = .ok g ∧
      g.pos = f + (if mode = 0 then [s.rom.gsu0Bits, s.rom.geu0Bits, s.rom.gsvBits, s.rom.gevBits]
        else [s.rom.gsu1Bits, s.rom.gsvBits]).sum := by
  by_cases hmode : mode = 0
  · subst hmode
    simp only [if_true, fits, List.sum_cons, List.sum_nil] at h ⊢
    exact ⟨_, gradientFields_direct rfl rfl (by omega), by simp only; omega⟩
  · simp only [if_neg hmode, fits, List.sum_cons, List.sum_nil] at h ⊢
    exact ⟨_, gradientFields_fixedEnd hmode rfl rfl (by omega), by simp only; omega⟩

theorem parseGradientRule_overrunsAs (s : State) :
    OverrunsAs s (gradientFields s.rom (s.field (cursor s) 2)) (cursor s) (parseGradientRule s) := by
  have hb := romBounds s
  refine overrunsAs_read_bind (n := 2) (by decide) fun hfit => ?_
  rw [fits_singleton] at hfit
  refine (gradientFields_overrunsAs s _ _).append fun hfields => ?_
  obtain ⟨g, hg, hpos⟩ := gradientFields_of_fits hfields (by omega)
  rw [hg, ok_bind, ← hpos]
  exact (read_overrunsAs (hb.gbnd.trans (by decide)) _).bind _

/-- Settles O30: the fields that the mode selects, or the first one that cannot be read. -/
theorem parseGradientStoresTheGradientFields : Obligations.ParseGradientStoresTheGradientFields := by
  intro s f p q hs hf h0 h1
  subst hf
  have hb := romBounds s
  by_cases hmode : s.field (cursor s) 2 = 0
  · obtain ⟨hp, hq⟩ := h0 hmode
    refine ⟨fun hlim => ?_, fun hlim => ?_⟩
    · have hfields := gradientFields_direct hp hq (by omega)
      rw [← hmode] at hfields
      exact ⟨_, exec_ok hs rfl (parseGradientRule_ok (by omega) hfields hlim), toNat_ofNat_field s _ (by decide),
        toNat_ofNat_field s _ hb.gbnd, toNat_ofNat_field s _ hb.gsv,
        fun _ => ⟨toNat_ofNat_field s _ hb.gsu0, toNat_ofNat_field_add s _ hb.geu0Fits, toNat_ofNat_field s _ hb.gev⟩,
        fun hne => absurd hmode hne, rfl⟩
    · refine exec_overruns hs rfl (fun _ _ _ => rfl) (parseGradientRule_overrunsAs s) ?_
      simp only [fits, Claims.gradientFields, if_pos hmode, List.sum_cons, List.sum_nil, List.cons_append,
        List.nil_append]
      omega
  · obtain ⟨hp, hq⟩ := h1 hmode
    refine ⟨fun hlim => ?_, fun hlim => ?_⟩
    · have hfields := gradientFields_fixedEnd hmode hp hq (by omega)
      have hend : (BitVec.ofNat 8 s.rom.gradM1EndUnit).toNat = s.rom.gradM1EndUnit :=
        (BitVec.toNat_ofNat _ _).trans (Nat.mod_eq_of_lt hb.endUnit)
      have hdefault (h : s.rom.usesDefaultParameters = true) : s.rom.gradM1EndUnit = 26 := by
        simp only [Config.usesDefaultParameters, Bool.and_eq_true, beq_iff_eq] at h
        exact h.1.1
      exact ⟨_, exec_ok hs rfl (parseGradientRule_ok (by omega) hfields hlim), toNat_ofNat_field s _ (by decide),
        toNat_ofNat_field s _ hb.gbnd, toNat_ofNat_field s _ hb.gsv, fun heq => absurd heq hmode,
        fun _ => ⟨toNat_ofNat_field s _ hb.gsu1, hend, fun h => hend.trans (hdefault h), rfl⟩, rfl⟩
    · refine exec_overruns hs rfl (fun _ _ _ => rfl) (parseGradientRule_overrunsAs s) ?_
      simp only [fits, Claims.gradientFields, if_neg hmode, List.sum_cons, List.sum_nil, List.cons_append,
        List.nil_append]
      omega

/-! ### A frame that fails (R246, R259) -/

theorem movesCursor_decodeFrame : movesCursor .decodeFrame := by
  intro s e he
  have hne : e.err ≠ .sync := by rintro h; rw [h] at he; cases he
  simp only [unspecOf, unspecFrame, if_neg hne]

/-- The header is the first thing a frame reads (R253). -/
theorem decodeFrameRule_overrunsAs (h : s.limitBits < cursor s + 8 ∨ s.field (cursor s) 8 = s.rom.syncWord) :
    OverrunsAs s (headerFields s.rom) (cursor s) (decodeFrameRule s) := by
  have hfield := field_congr (s := { s with bytesConsumed := 0 }) (t := s) rfl rfl (cursor s) 8
  exact (parseHeaderRule_overrunsAs (s := { s with bytesConsumed := 0 }) (h.imp id hfield.trans)).bind _

/-- Settles O51: what an error of a frame leaves unspecified, and the header's overrun. -/
theorem aFailedFrameLeavesTheOverlapState : Obligations.AFailedFrameLeavesTheOverlapState := by
  intro s t hs h ht
  obtain ⟨-, -, herr⟩ | ⟨e, he⟩ := exec_output_cases (.inr rfl) h
  · rw [herr, hs] at ht
    cases ht
  have hk := unspec_keeps .decodeFrame e s
  have hrep : reports s t e.err.code e.pos := he ▸ Common.reports_fail hk
  have hcode : t.status.errCode = e.err.code := by rw [hrep.1]
  refine ⟨fun c => ?prev, exec_inByte h, fun hc a => ⟨exec_inByte h a, ?out⟩, fun hc => ?ptr, fun a ha => ?beyond, ?result,
    exec_hlut (i := .decodeFrame) nofun h, ?consumed, fun hne => ?fatal, fun hi hheader => ?header⟩
  case prev =>
    rw [he, ← unspec_prev .decodeFrame e s c]
    cases c <;> rfl
  case out =>
    rw [hcode] at hc
    refine outByte_congr ?_ (exec_ends h).ramEpoch a
    rw [he]
    exact fail_unspecFrame_outBuf hc
  case ptr =>
    rw [hcode] at hc
    rw [he]
    exact fail_unspecFrame_outPtr hc
  case beyond =>
    rw [he]
    exact unspecFrame_outByte e ha
  case result =>
    rw [he]
    exact fail_unspecFrame_result s e
  case consumed =>
    rw [he]
    exact fail_unspecFrame_bytesConsumed s e
  case fatal =>
    rw [hcode] at hne
    rw [hrep.1, bne_iff_ne.mpr hne, Bool.or_true]
  case header =>
    obtain ⟨u, hu, hover⟩ := exec_overruns hi rfl movesCursor_decodeFrame
      (decodeFrameRule_overrunsAs (hheader.imp id And.left)) (not_fits_header (hheader.imp id And.right))
    cases h.symm.trans hu
    exact hover

end Sys2Proof.Proofs.Fields
end

section
/-! The gradient and precision engine: the curve (R150 to R152), the mask (R154) and the precisions (R155 to R158). -/

namespace Sys2Proof.Proofs.Precision

open Sys2Proof.Machine Sys2Proof.Claims Sys2Proof.Proofs.Commands Sys2Proof.Proofs.Parameters

variable {s t : State} {c : Chan} {i j n : Nat}

/-! ### int32 cells -/

theorem toInt_ofInt {x : Int} (hlow : -2 ^ 31 ≤ x) (hhigh : x < 2 ^ 31) : (Word.ofInt x).toInt = x := by
  rw [Word.ofInt, BitVec.toInt_ofInt, Int.bmod_eq_of_le] <;> omega

theorem units_int_put (v : Units) (j : Nat) {x : Int} (hlow : -2 ^ 31 ≤ x) (hhigh : x < 2 ^ 31) (i : Nat) :
    Units.int (Units.put v j (Word.ofInt x)) i = if j = i ∧ i < 34 then x else Units.int v i := by
  rw [Units.int, units_at_put]
  split
  · exact toInt_ofInt hlow hhigh
  · rfl

/-! ### `GRADIENT_BUILD` (R150 to R152) -/

theorem curve_le (c : ValidConfig) (r k : Nat) : c.rom.curve r k ≤ 255 := by
  have hwf := c.ok
  simp only [Config.wf, Config.bandOk, Bool.and_eq_true, decide_eq_true_eq, List.all_eq_true] at hwf
  obtain ⟨⟨⟨⟨⟨-, ⟨-, hcurve⟩, -⟩, -⟩, -⟩, -⟩, -⟩ := hwf
  by_cases hr : r < c.rom.curveRom.length
  · by_cases hk : k < c.rom.curveRom[r].length
    · rw [Config.curve, List.getD_eq_getElem _ _ hr, List.getD_eq_getElem _ _ hk]
      exact hcurve _ (List.getElem_mem hr) _ (List.getElem_mem hk)
    · rw [Config.curve, List.getD_eq_getElem _ _ hr, List.getD_eq_default _ _ (Nat.le_of_not_lt hk)]
      exact Nat.zero_le _
  · rw [Config.curve, List.getD_eq_default _ _ (Nat.le_of_not_lt hr)]
    exact Nat.zero_le _

theorem gradientTerm_eq (c : Config) (span k : Nat) (vc : Int) :
    gradientTerm c span k vc = (c.curve (span - 1) k : Int) * (vc - 1) / 256 + 1 := by
  have hshift (m : Int) : m >>> (8 : Int) = m / 256 :=
    (Int.shiftRight_natCast_right m 8).trans (Int.shiftRight_eq_div_pow m 8)
  rw [gradientTerm, hshift]

theorem gradientTerm_bounds (c : ValidConfig) (span k : Nat) {vc : Int} (hlow : -255 ≤ vc) (hhigh : vc ≤ 255) :
    -256 ≤ gradientTerm c.rom span k vc ∧ gradientTerm c.rom span k vc ≤ 256 := by
  have hcurve : (c.rom.curve (span - 1) k : Int) ≤ 255 := by exact_mod_cast curve_le c _ _
  have h0 : (0 : Int) ≤ c.rom.curve (span - 1) k := Int.natCast_nonneg _
  have hl : -65280 ≤ (c.rom.curve (span - 1) k : Int) * (vc - 1) := by nlinarith
  have hh : (c.rom.curve (span - 1) k : Int) * (vc - 1) ≤ 65280 := by nlinarith
  rw [gradientTerm_eq]
  omega

/-- Entry `i` after the first `n` steps of the slope, each of which writes an entry of its own. -/
theorem gradientSlope_at (c : Config) (gsu span n : Nat) (vc : Int) (g : Units) (i : Nat) :
    Units.at ((List.range n).foldl
      (fun u k => Units.put u (gsu + k) (Word.ofInt (Units.int u (gsu + k) - gradientTerm c span k vc))) g) i =
    if gsu ≤ i ∧ i < gsu + n ∧ i < 34 then Word.ofInt (Units.int g i - gradientTerm c span (i - gsu) vc)
    else Units.at g i := by
  induction n generalizing i with
  | zero => rw [List.range_zero, List.foldl_nil, if_neg (by omega)]
  | succ n ih =>
    have hold := ih (gsu + n)
    rw [if_neg (by omega)] at hold
    rw [List.range_succ, List.foldl_append, List.foldl_cons, List.foldl_nil, units_at_put, ih i, Units.int, hold]
    by_cases hi : gsu + n = i
    · subst hi
      by_cases h34 : gsu + n < 34
      · rw [if_pos ⟨rfl, h34⟩, if_pos (by omega), Nat.add_sub_cancel_left, Units.int]
      · rw [if_neg (fun h => h34 h.2), if_neg (by omega), if_neg (by omega)]
    · rw [if_neg (fun h => hi h.1)]
      congr 1
      exact propext (by omega)

theorem gradientBase_int {geu : Nat} {gsv gev : Nat} (hgsv : gsv < 256) (hgev : gev < 256) (hi : i < 34) :
    Units.int (gradientBase geu gsv gev) i = if i < geu then -(gsv : Int) else -(gev : Int) := by
  rw [Units.int, gradientBase, units_at_ofFn _ hi, toInt_ofInt] <;> split <;> omega

/-- Entry `i` of the curve that the slope makes of the base values (R151, R152). -/
theorem gradientSlope_int (c : ValidConfig) {gsu geu gsv gev : Nat} (hgsv : gsv < 256) (hgev : gev < 256)
    (hne : gev ≠ gsv) (hi : i < 34) :
    Units.int (gradientSlope c.rom gsu (geu - gsu) ((gev : Int) - gsv) (gradientBase geu gsv gev)) i =
      gradientAt c.rom (gsu, geu, gsv, gev) i := by
  have hbase := gradientBase_int (geu := geu) hgsv hgev hi
  have hterm := gradientTerm_bounds c (geu - gsu) (i - gsu) (vc := (gev : Int) - gsv) (by omega) (by omega)
  rw [Units.int, gradientSlope, gradientSlope_at]
  dsimp only [gradientAt]
  by_cases h : gsu ≤ i ∧ i < geu
  · rw [if_pos (by omega), hbase, if_pos h.2, toInt_ofInt (by omega) (by omega), if_pos ⟨h.1, h.2, hne⟩, gradientTerm_eq]
  · rw [if_neg (by omega), if_neg (fun h' : gsu ≤ i ∧ i < geu ∧ gev ≠ gsv => h ⟨h'.1, h'.2.1⟩), Int.sub_zero]
    exact hbase

theorem gradientBuildRule_ok {gsu geu gsv gev : Nat} (hgsu : gsu = s.gparam0.gsu.toNat) (hgeu : geu = s.gparam0.geu.toNat)
    (hgsv : gsv = s.gparam1.gsv.toNat) (hgev : gev = s.gparam1.gev.toNat)
    (hfits : gradientFits s.rom (gsu, geu, gsv, gev)) :
    ∃ g, gradientBuildRule s = .ok { s with gradient := g } ∧
      ∀ i, i < 34 → Units.int g i = gradientAt s.rom (gsu, geu, gsv, gev) i := by
  have hgsv256 : gsv < 256 := hgsv ▸ s.gparam1.gsv.isLt
  have hgev256 : gev < 256 := hgev ▸ s.gparam1.gev.isLt
  obtain ⟨h34, hspan⟩ := hfits
  simp only [gradientBuildRule, ← hgsu, ← hgeu, ← hgsv, ← hgev, if_neg (Nat.not_lt.mpr h34)]
  by_cases hslope : gsu < geu ∧ (gev : Int) - gsv ≠ 0
  · have hne : gev ≠ gsv := by omega
    have hrow := hspan hslope.1 hne
    rw [if_pos hslope, if_neg (Nat.not_le.mpr hrow)]
    exact ⟨_, rfl, fun i hi => gradientSlope_int s.cfg hgsv256 hgev256 hne hi⟩
  · rw [if_neg hslope]
    refine ⟨_, rfl, fun i hi => ?_⟩
    dsimp only [gradientAt]
    rw [gradientBase_int hgsv256 hgev256 hi,
      if_neg (fun h : gsu ≤ i ∧ i < geu ∧ gev ≠ gsv => hslope ⟨by omega, by omega⟩), Int.sub_zero]

theorem gradientBuildRule_indexRange
    (h : 34 < s.gparam0.geu.toNat ∨ s.gparam0.gsu.toNat < s.gparam0.geu.toNat ∧
      s.gparam1.gev.toNat ≠ s.gparam1.gsv.toNat ∧ s.rom.curveSpans ≤ s.gparam0.geu.toNat - s.gparam0.gsu.toNat - 1) :
    gradientBuildRule s = .error (s.raiseHere .indexRange) := by
  simp only [gradientBuildRule]
  by_cases h34 : 34 < s.gparam0.geu.toNat
  · rw [if_pos h34]
  · obtain ⟨hlt, hne, hspan⟩ := h.resolve_left h34
    rw [if_neg h34, if_pos ⟨hlt, by omega⟩, if_pos hspan]

/-- Settles O31: the base values, then the slope of the curve's row. -/
theorem gradientBuildComputesTheCurve : Obligations.GradientBuildComputesTheCurve := by
  intro s gsu geu gsv gev hs hgsu hgeu hgsv hgev
  refine ⟨fun hfits => ?_, fun h => ?_⟩
  · obtain ⟨g, hg, hat⟩ := gradientBuildRule_ok hgsu hgeu hgsv hgev hfits
    exact ⟨_, exec_ok (i := .gradientBuild) hs rfl hg, rfl, hat⟩
  · subst hgsu hgeu hgsv hgev
    obtain ⟨t, ht, hrep, -⟩ := exec_reports (i := .gradientBuild) hs rfl (gradientBuildRule_indexRange h)
    exact ⟨t, ht, hrep⟩

/-! ### `PMASK_BUILD` (R154) -/

theorem maskAt_bounds (m : Nat) (f : Nat → Int) (i : Nat) : 0 ≤ maskAt m f i ∧ maskAt m f i ≤ 10 := by
  unfold maskAt
  split <;> split <;> omega

/-- The mask that unit `n + 1` makes of the mask of the units below it. -/
theorem maskAt_succ (f : Nat → Int) (n i : Nat) :
    maskAt (n + 2) f i = maskAt (n + 1) f i +
      (if i = n + 1 ∧ 1 < f (n + 1) - f n then min (f (n + 1) - f n - 1) 5 else 0) +
      if i = n ∧ f (n + 1) - f n < -1 then min (-(f (n + 1) - f n) - 1) 5 else 0 := by
  unfold maskAt
  by_cases h1 : i = n + 1
  · subst h1
    rw [Nat.add_sub_cancel]
    split_ifs <;> omega
  · by_cases h2 : i = n
    · subst h2
      split_ifs <;> omega
    · split_ifs <;> omega

theorem pmaskStep_int (sf m : Units) {n : Nat} (hn : n + 1 < 34) (hm : ∀ i, i < 34 → 0 ≤ Units.int m i ∧ Units.int m i ≤ 10)
    {i : Nat} (hi : i < 34) :
    Units.int (pmaskStep sf m (n + 1)) i = Units.int m i +
      (if i = n + 1 ∧ 1 < Units.int sf (n + 1) - Units.int sf n then
        min (Units.int sf (n + 1) - Units.int sf n - 1) 5 else 0) +
      if i = n ∧ Units.int sf (n + 1) - Units.int sf n < -1 then
        min (-(Units.int sf (n + 1) - Units.int sf n) - 1) 5 else 0 := by
  have hrise := hm (n + 1) hn
  have hfall := hm n (by omega)
  unfold pmaskStep
  rw [Nat.add_sub_cancel]
  dsimp only
  by_cases h1 : 1 < Units.int sf (n + 1) - Units.int sf n
  · rw [if_pos h1, units_int_put _ _ (by omega) (by omega)]
    by_cases hin : n + 1 = i
    · subst hin
      rw [if_pos ⟨rfl, hi⟩, if_pos ⟨rfl, h1⟩, if_neg (by omega), Int.add_zero]
    · rw [if_neg (fun h => hin h.1), if_neg (fun h => hin h.1.symm), if_neg (by omega), Int.add_zero, Int.add_zero]
  · rw [if_neg h1]
    by_cases h2 : Units.int sf (n + 1) - Units.int sf n < -1
    · rw [if_pos h2, units_int_put _ _ (by omega) (by omega)]
      by_cases hin : n = i
      · subst hin
        rw [if_pos ⟨rfl, hi⟩, if_neg (by omega), if_pos ⟨rfl, h2⟩, Int.add_zero]
      · rw [if_neg (fun h => hin h.1), if_neg (fun h => h1 h.2), if_neg (fun h => hin h.1.symm), Int.add_zero,
          Int.add_zero]
    · rw [if_neg h2, if_neg (fun h => h1 h.2), if_neg (fun h => h2 h.2), Int.add_zero, Int.add_zero]

theorem maskAt_one (f : Nat → Int) (i : Nat) : maskAt 1 f i = 0 := by
  rw [maskAt, if_neg (by omega), if_neg (by omega)]
  rfl

theorem maskAt_zero (f : Nat → Int) (i : Nat) : maskAt 0 f i = 0 := by
  rw [maskAt, if_neg (by omega), if_neg (by omega)]
  rfl

/-- The mask after `n` steps is that of the units 0 to `n`. -/
theorem pmask_foldl_int (sf : Units) {n : Nat} (hn : n < 34) {i : Nat} (hi : i < 34) :
    Units.int ((List.range n).foldl (fun m k => pmaskStep sf m (k + 1)) Units.zero) i =
      maskAt (n + 1) (Units.int sf) i := by
  induction n generalizing i with
  | zero =>
    rw [List.range_zero, List.foldl_nil, maskAt_one, Units.int, units_at_zero]
    rfl
  | succ n ih =>
    have hold (i : Nat) (hi : i < 34) := ih (by omega) hi
    rw [List.range_succ, List.foldl_append, List.foldl_cons, List.foldl_nil,
      pmaskStep_int sf _ hn (fun i hi => hold i hi ▸ maskAt_bounds _ _ _) hi, hold i hi, maskAt_succ]

theorem pmaskOf_int (sf : Units) {nqu : Nat} (hn : nqu ≤ 34) {i : Nat} (hi : i < 34) :
    Units.int (pmaskOf sf nqu) i = maskAt nqu (Units.int sf) i := by
  obtain rfl | hpos := Nat.eq_zero_or_pos nqu
  · rw [maskAt_zero, ← maskAt_one (Units.int sf) i]
    exact pmask_foldl_int sf (by omega) hi
  · obtain ⟨n, rfl⟩ := Nat.exists_eq_succ_of_ne_zero hpos.ne'
    exact pmask_foldl_int sf hn hi

theorem pmaskBuildRule_ok (h : s.nqu ≤ 34) :
    pmaskBuildRule c s = .ok (s.setChan c { s.chan c with pmask := pmaskOf (s.chan c).sf s.nqu }) := by
  rw [pmaskBuildRule, checkNqu_ok h]
  rfl

theorem finished_setChan (s : State) (c : Chan) (x : Channel) :
    (s.setChan c x).complete = finished (withChan s c x) := by cases c <;> rfl

theorem chan_complete_setChan (s : State) (c : Chan) (x : Channel) : ((s.setChan c x).complete).chan c = x := by
  cases c <;> rfl

/-- Settles O32: step `k` adds to the two cells beside the step from unit `k` to unit `k + 1`. -/
theorem pmaskBuildAddsTheStepsBetweenFactors : Obligations.PmaskBuildAddsTheStepsBetweenFactors := by
  intro s c hs
  refine ⟨fun h => ⟨_, exec_ok (i := .pmaskBuild c) hs rfl (pmaskBuildRule_ok h), ?_, fun i hi => ?_⟩, fun h => ?_⟩
  · rw [chan_complete_setChan, finished_setChan]
  · rw [chan_complete_setChan]
    have hat : Units.int (pmaskOf (s.chan c).sf s.nqu) i = _ := pmaskOf_int _ h hi
    exact ⟨hat, hat.le.trans (maskAt_bounds _ _ _).2⟩
  · obtain ⟨t, ht, hrep, -⟩ := exec_reports (i := .pmaskBuild c) hs rfl
      (show pmaskBuildRule c s = _ by rw [pmaskBuildRule, checkNqu_error h, error_bind])
    exact ⟨t, ht, hrep⟩

/-! ### `PRECISION_CALC` (R155 to R158) -/

/-- The sum of a unit after the mode's division (R156). -/
def dividedSum (gmode : Nat) (sum : Int) : Int :=
  if sum ≤ 0 ∨ gmode = 0 then sum else if gmode = 1 then sum / 2 else if gmode = 2 then 3 * sum / 8 else sum / 4

theorem precisionFrom_eq (gmode gbnd : Nat) (sum : Int) (i : Nat) :
    precisionFrom gmode gbnd sum i = max (dividedSum gmode sum) 1 + if i < gbnd then 1 else 0 := rfl

theorem modeSum_eq {gmode : Nat} (h : gmode ≤ 3) (sf g m : Int) :
    modeSum gmode sf g m = dividedSum gmode (sf + g + if gmode = 0 then 0 else m) := by
  unfold modeSum dividedSum
  by_cases h0 : gmode = 0
  · rw [if_pos h0, if_pos h0, if_pos (.inr h0), Int.add_zero]
  · simp only [if_neg h0]
    by_cases hpos : 0 < sf + g + m
    · rw [if_pos hpos, if_neg (not_or.mpr ⟨not_le.mpr hpos, h0⟩)]
      by_cases h1 : gmode = 1
      · rw [if_pos h1, if_pos h1]
      · rw [if_neg h1, if_neg h1]
        by_cases h2 : gmode = 2
        · rw [if_pos h2, if_pos h2]
        · rw [if_neg h2, if_neg h2, if_pos (by omega)]
    · rw [if_neg hpos, if_pos (.inl (by omega))]

theorem dividedSum_le (gmode : Nat) (sum : Int) : dividedSum gmode sum ≤ max sum 0 := by
  unfold dividedSum
  split_ifs <;> omega

theorem gmode_zero_iff (s : State) : s.gparam0.gmode = 0 ↔ s.gparam0.gmode.toNat = 0 :=
  ⟨fun h => by rw [h]; rfl, fun h => BitVec.eq_of_toNat_eq (h.trans rfl)⟩

/-- The whole precision of a unit below NQU, in its int32 cell (R8, R156). -/
theorem wholePrecision_toInt (hg : s.gparam0.gmode.toNat ≤ 3) {i : Nat} (hi : i < s.nqu)
    (hsum : Claims.precisionSum s c i < 2 ^ 31 - 1) :
    (wholePrecision s c i).toInt = Claims.precisionOf s c i := by
  have hle := dividedSum_le s.gparam0.gmode.toNat (Claims.precisionSum s c i)
  have hmode : modeSum s.gparam0.gmode.toNat (Units.int (s.chan c).sf i) (Units.int s.gradient i)
      (Units.int (s.chan c).pmask i) = dividedSum s.gparam0.gmode.toNat (Claims.precisionSum s c i) := by
    simp only [modeSum_eq hg, Claims.precisionSum, gmode_zero_iff]
  rw [Claims.precisionOf, precisionFrom_eq, wholePrecision, hmode]
  generalize dividedSum s.gparam0.gmode.toNat (Claims.precisionSum s c i) = d at hle
  have hfloor : (Word.ofInt (max d 1)).toInt = max d 1 := toInt_ofInt (by omega) (by omega)
  by_cases hb : i < s.gparam0.gbnd.toNat
  · rw [if_pos (lt_min hb hi), if_pos hb, hfloor]
    exact toInt_ofInt (by omega) (by omega)
  · rw [if_neg (fun h => hb (h.trans_le (Nat.min_le_left _ _))), if_neg hb, Int.add_zero]
    exact hfloor

theorem precisionOf_ge (s : State) (c : Chan) (i : Nat) : 1 ≤ Claims.precisionOf s c i := by
  rw [Claims.precisionOf, precisionFrom_eq]
  split <;> omega

theorem fineSplit_below {i : Nat} (hi : i < s.nqu) {p : Int} (hp : (wholePrecision s c i).toInt = p) (hlow : 1 ≤ p) :
    (fineSplit s c i).1.toInt = min p 15 ∧ (fineSplit s c i).2.toInt = max (p - 15) 0 := by
  have hhigh : p < 2 ^ 31 := hp ▸ BitVec.toInt_lt
  simp only [fineSplit, if_pos hi, hp]
  by_cases h15 : 15 < p
  · rw [if_pos h15]
    refine ⟨?_, (toInt_ofInt (by omega) (by omega)).trans (by omega)⟩
    rw [min_eq_right h15.le]
    rfl
  · rw [if_neg h15]
    refine ⟨hp.trans (by omega), ?_⟩
    rw [max_eq_right (by omega)]
    rfl

theorem fineSplit_above {i : Nat} (hi : s.nqu ≤ i) : fineSplit s c i = (0, 0) := by
  simp only [fineSplit, if_neg (Nat.not_lt.mpr hi)]

theorem precisionCalcRule_ok (h : s.nqu ≤ 34) (hg : s.gparam0.gmode.toNat ≤ 3) :
    precisionCalcRule c s = .ok (s.setChan c { s.chan c with
      prec := Vector.ofFn (fun i => (fineSplit s c i).1)
      precf := Vector.ofFn (fun i => (fineSplit s c i).2) }) := by
  rw [precisionCalcRule, checkNqu_ok h, ok_bind, if_neg (Nat.not_lt.mpr hg)]
  rfl

theorem precisionCalcRule_indexRange (h : 34 < s.nqu ∨ 3 < s.gparam0.gmode.toNat) :
    precisionCalcRule c s = .error (s.raiseHere .indexRange) := by
  rw [precisionCalcRule]
  by_cases hn : 34 < s.nqu
  · rw [checkNqu_error hn, error_bind]
  · rw [checkNqu_ok (Nat.le_of_not_lt hn), ok_bind, if_pos (h.resolve_left hn)]
    rfl

/-- Settles O33: the whole precision, split at 15. -/
theorem precisionCalcSplitsThePrecision : Obligations.PrecisionCalcSplitsThePrecision := by
  intro s c hs
  refine ⟨fun h hg => ⟨_, exec_ok (i := .precisionCalc c) hs rfl (precisionCalcRule_ok h hg), ?_, fun i hi h34 => ?_,
    fun i hi hsum => ?_⟩, fun h => ?_⟩
  · rw [chan_complete_setChan, finished_setChan]
  · rw [chan_complete_setChan, Units.int, Units.int, units_at_ofFn _ h34, units_at_ofFn _ h34, fineSplit_above hi]
    exact ⟨rfl, rfl⟩
  · have h34 : i < 34 := hi.trans_le h
    have hlow := precisionOf_ge s c i
    obtain ⟨hprec, hprecf⟩ := fineSplit_below hi (wholePrecision_toInt hg hi hsum) hlow
    rw [chan_complete_setChan, Units.int, Units.int, units_at_ofFn _ h34, units_at_ofFn _ h34]
    exact ⟨hprec, hprecf, hprec ▸ le_min hlow (by decide)⟩
  · obtain ⟨t, ht, hrep, -⟩ := exec_reports (i := .precisionCalc c) hs rfl (precisionCalcRule_indexRange h)
    exact ⟨t, ht, hrep⟩

end Sys2Proof.Proofs.Precision
end

section
/-! The scale-factor decoder `SF_DECODE`: schemes A, B and C (R170 to R175). -/

namespace Sys2Proof.Proofs.ScaleFactors

open Sys2Proof.Machine Sys2Proof.Claims Sys2Proof.Proofs.Commands Sys2Proof.Proofs.Parameters
  Sys2Proof.Proofs.FieldReads Sys2Proof.Proofs.Huffman Sys2Proof.Proofs.Reader Sys2Proof.Proofs.Precision Sys2Proof.Proofs.Fields

variable {s t : State} {c : Chan} {l : LocalCh} {id p q : Nat}

/-! ### Runs of codes (R133) -/

theorem codesAt_le {syms : List Nat} (hid : id ≤ 12) (h : codesAt s id syms p q) (hp : p ≤ s.limitBits) :
    q ≤ s.limitBits := by
  induction syms generalizing p with
  | nil => exact h ▸ hp
  | cons i is ih =>
    obtain ⟨-, hwindow, -, hrest⟩ := h
    have hlen := (wellFormedCodebook_huff s.cfg hid).len_le i
    exact ih hrest (le_trans (Nat.add_le_add_left hlen p) hwindow)

/-- Scheme A's chain over a run of codes: the sums of the first symbols, modulo 2^bl (R171). -/
theorem sfChain_of_codes {bl : Nat} (hbl : bl < 7) (hl : lutsHold s) {syms : List Nat} (h : codesAt s bl syms p q)
    (prev : Nat) :
    s.sfChain bl syms.length prev p =
      .ok ((List.range syms.length).map (fun j => (((prev + (syms.take (j + 1)).sum) % 2 ^ bl : Nat) : Int)), q) := by
  induction syms generalizing p prev with
  | nil => cases h; rfl
  | cons i is ih =>
    obtain ⟨hused, hwindow, hcode, hrest⟩ := h
    have hmeans : symbolMeans bl i = i := if_neg (by omega)
    have hraw : ((prev : Int) + symbolMeans bl i) % 2 ^ bl = (((prev + i) % 2 ^ bl : Nat) : Int) := by
      rw [hmeans]
      push_cast
      rfl
    rw [List.length_cons, State.sfChain, huffAt_code hl (by omega) hused hwindow hcode, ok_bind]
    dsimp only
    rw [hraw, ih hrest, ok_bind, pure_eq_ok, List.range_succ_eq_map, List.map_cons, List.map_map]
    simp [Function.comp_def, Nat.add_assoc]

/-- The chain stops at the first code that cannot be decoded. -/
theorem sfChain_of_codeFails {bl k : Nat} (hbl : bl ≤ 12) (hl : lutsHold s) {syms : List Nat} (hk : syms.length < k)
    (h : codesAt s bl syms p q) {e : Raise} (he : s.huffAt q bl = .error e) (prev : Int) :
    s.sfChain bl k prev p = .error e := by
  induction syms generalizing p prev k with
  | nil =>
    obtain ⟨k, rfl⟩ := Nat.exists_eq_succ_of_ne_zero hk.ne'
    cases h
    rw [State.sfChain, he, error_bind]
  | cons i is ih =>
    obtain ⟨k, rfl⟩ := Nat.exists_eq_succ_of_ne_zero (Nat.ne_zero_of_lt hk)
    obtain ⟨hused, hwindow, hcode, hrest⟩ := h
    rw [State.sfChain, huffAt_code hl hbl hused hwindow hcode, ok_bind]
    dsimp only
    rw [ih (Nat.lt_of_succ_lt_succ hk) hrest, error_bind]

/-- Scheme C's factors over a run of codes (R174). -/
theorem sfDeltas_of_codes (hid : id ≤ 12) (hl : lutsHold s) {syms : List Nat} (h : codesAt s id syms p q) (i : Nat) :
    s.sfDeltas id syms.length i p = .ok ((List.range syms.length).map
      (fun j => Units.int s.ch0.sf (i + j) + symbolMeans id (syms.getD j 0)), q) := by
  induction syms generalizing p i with
  | nil => cases h; rfl
  | cons k is ih =>
    obtain ⟨hused, hwindow, hcode, hrest⟩ := h
    rw [List.length_cons, State.sfDeltas, huffAt_code hl hid hused hwindow hcode, ok_bind]
    dsimp only
    rw [ih hrest, ok_bind, pure_eq_ok, List.range_succ_eq_map, List.map_cons, List.map_map]
    simp [Function.comp_def, Nat.add_assoc, Nat.add_comm 1]

theorem sfDeltas_of_codeFails {k : Nat} (hid : id ≤ 12) (hl : lutsHold s) {syms : List Nat} (hk : syms.length < k)
    (h : codesAt s id syms p q) {e : Raise} (he : s.huffAt q id = .error e) (i : Nat) :
    s.sfDeltas id k i p = .error e := by
  induction syms generalizing p i k with
  | nil =>
    obtain ⟨k, rfl⟩ := Nat.exists_eq_succ_of_ne_zero hk.ne'
    cases h
    rw [State.sfDeltas, he, error_bind]
  | cons j is ih =>
    obtain ⟨k, rfl⟩ := Nat.exists_eq_succ_of_ne_zero (Nat.ne_zero_of_lt hk)
    obtain ⟨hused, hwindow, hcode, hrest⟩ := h
    rw [State.sfDeltas, huffAt_code hl hid hused hwindow hcode, ok_bind]
    dsimp only
    rw [ih (Nat.lt_of_succ_lt_succ hk) hrest, error_bind]

/-! ### The factor array (R170, R171) -/

theorem weight_le (c : ValidConfig) (r k : Nat) : c.rom.weight r k ≤ 255 := by
  have hwf := c.ok
  simp only [Config.wf, Config.scaleFactorOk, Bool.and_eq_true, List.all_eq_true, decide_eq_true_eq] at hwf
  obtain ⟨⟨⟨⟨-, -, hweight⟩, -⟩, -⟩, -⟩ := hwf
  by_cases hr : r < c.rom.weightRom.length
  · by_cases hk : k < c.rom.weightRom[r].length
    · rw [Config.weight, List.getD_eq_getElem _ _ hr, List.getD_eq_getElem _ _ hk]
      exact (hweight _ (List.getElem_mem hr)).2 _ (List.getElem_mem hk)
    · rw [Config.weight, List.getD_eq_getElem _ _ hr, List.getD_eq_default _ _ (Nat.le_of_not_lt hk)]
      exact Nat.zero_le _
  · rw [Config.weight, List.getD_eq_default _ _ (Nat.le_of_not_lt hr)]
    exact Nat.zero_le _

theorem correctFactors_getD (c : Config) (off wt : Nat) (raw : List Int) {i : Nat} (h : i < raw.length) :
    (correctFactors c off wt raw).getD i 0 = raw.getD i 0 + off - c.weight wt i := by
  simp [correctFactors, List.getD_eq_getElem?_getD, h]

theorem length_correctFactors (c : Config) (off wt : Nat) (raw : List Int) :
    (correctFactors c off wt raw).length = raw.length := by
  simp [correctFactors]

theorem factorUnits_at (factors : List Int) {i : Nat} (h : i < 34) :
    Units.at (factorUnits factors) i = Word.ofInt (factors.getD i 0) := units_at_ofFn _ h

theorem factorUnits_above {factors : List Int} {i : Nat} (hi : factors.length ≤ i) (h : i < 34) :
    Units.at (factorUnits factors) i = 0 := by
  rw [factorUnits_at _ h, List.getD_eq_default _ _ hi]
  rfl

/-- A corrected value of at most 6 bits is held whole. -/
theorem factorUnits_corrected {cfg : ValidConfig} {off wt : Nat} {raw : List Int} {i : Nat} {v : Nat} (hi : i < raw.length)
    (h34 : i < 34) (hv : raw.getD i 0 = v) (hv64 : v < 64) (hoff : off < 256) :
    Units.int (factorUnits (correctFactors cfg.rom off wt raw)) i = (v : Int) + off - cfg.rom.weight wt i := by
  have hw := weight_le cfg wt i
  rw [Units.int, factorUnits_at _ h34, correctFactors_getD _ _ _ _ hi, hv, toInt_ofInt (by omega) (by omega)]

/-! ### The command (R170) -/

theorem operandsOk_sfDecode (h : c = .c0 → l = .l0) : operandsOk (.sfDecode c l) = true := by
  cases c with
  | c0 => rw [h rfl]; rfl
  | c1 => cases l <;> rfl

theorem movesCursor_sfDecode (c : Chan) (l : LocalCh) : movesCursor (.sfDecode c l) := fun _ _ _ => rfl

/-- What `SF_DECODE` leaves of the result of its scheme. -/
def storeFactors (c : Chan) (s : State) (r : SfResult) : State :=
  (s.setChan c { s.chan c with sf := factorUnits r.factors, sfcfg := r.cfg }).setBrPos r.pos

/-- `SFCFG[c]` with its mode flag set (R170). -/
def modeCfg (c : Chan) (s : State) : SfCfg :=
  { (s.chan c).sfcfg with sfmode := BitVec.ofNat 1 (s.field (cursor s) 1) }

theorem sfDecodeRule_of_mode (h : s.nqu ≤ 34) (hfit : cursor s + 1 ≤ s.limitBits) :
    sfDecodeRule c l s =
      s.sfScheme (s.field (cursor s) 1) l (modeCfg c s) (cursor s + 1) >>= fun r => .ok (storeFactors c s r) := by
  have hread : s.read (cursor s) Config.sfModeBits = .ok (s.field (cursor s) 1, cursor s + 1) :=
    read_ok ⟨by decide, .inr hfit⟩
  rw [sfDecodeRule, checkNqu_ok h, ok_bind, hread, ok_bind]
  rfl

theorem sfDecodeRule_ok {r : SfResult} (h : s.nqu ≤ 34) (hfit : cursor s + 1 ≤ s.limitBits)
    (hr : s.sfScheme (s.field (cursor s) 1) l (modeCfg c s) (cursor s + 1) = .ok r) :
    sfDecodeRule c l s = .ok (storeFactors c s r) := by
  rw [sfDecodeRule_of_mode h hfit, hr, ok_bind]

theorem sfDecodeRule_error {e : Raise} (h : s.nqu ≤ 34) (hfit : cursor s + 1 ≤ s.limitBits)
    (hr : s.sfScheme (s.field (cursor s) 1) l (modeCfg c s) (cursor s + 1) = .error e) :
    sfDecodeRule c l s = .error e := by
  rw [sfDecodeRule_of_mode h hfit, hr, error_bind]

theorem sfDecodeRule_overrunsAs {ns : List Nat} (h : s.nqu ≤ 34)
    (hr : OverrunsAs s ns (cursor s + 1) (s.sfScheme (s.field (cursor s) 1) l (modeCfg c s) (cursor s + 1))) :
    OverrunsAs s (1 :: ns) (cursor s) (sfDecodeRule c l s) := by
  rw [sfDecodeRule, checkNqu_ok h, ok_bind]
  exact overrunsAs_read_bind (n := 1) (by decide) fun _ => hr.bind _

theorem complete_storeFactors (s : State) (c : Chan) (r : SfResult) :
    (storeFactors c s r).complete = finished { withChan s c { s.chan c with sf := factorUnits r.factors, sfcfg := r.cfg } with
      brPos := BitVec.ofNat 32 r.pos } := by cases c <;> rfl

theorem chan_storeFactors (s : State) (c : Chan) (r : SfResult) :
    (storeFactors c s r).complete.chan c = { s.chan c with sf := factorUnits r.factors, sfcfg := r.cfg } := by
  cases c <;> rfl

/-! ### Scheme A (R171) -/

/-- The first coded value, and those of the chain. -/
def chainValues (bl first : Nat) (syms : List Nat) : List Int :=
  (List.range (syms.length + 1)).map (fun j => (((first + (syms.take j).sum) % 2 ^ bl : Nat) : Int))

theorem chainValues_getD {bl first i : Nat} {syms : List Nat} (h : i ≤ syms.length) :
    (chainValues bl first syms).getD i 0 = (((first + (syms.take i).sum) % 2 ^ bl : Nat) : Int) := by
  simp [chainValues, List.getD_eq_getElem?_getD, List.getElem?_map, List.getElem?_range (Nat.lt_succ_of_le h)]

theorem sfCodedValues_of_codes {bl : Nat} (hbl : bl < 7) (hl : lutsHold s) {syms : List Nat} {n : Nat}
    (hn : syms.length + 1 = n) (hfit : p + bl ≤ s.limitBits) (h : codesAt s bl syms (p + bl) q) :
    s.sfCodedValues bl n p = .ok (chainValues bl (s.field p bl) syms, q) := by
  subst hn
  rw [State.sfCodedValues, read_ok ⟨by omega, .inr hfit⟩, ok_bind]
  dsimp only
  rw [sfChain_of_codes hbl hl h, ok_bind, pure_eq_ok, chainValues, List.range_succ_eq_map, List.map_cons, List.map_map,
    List.take_zero, List.sum_nil, Nat.add_zero, Nat.mod_eq_of_lt (field_lt s p bl)]
  rfl

theorem sfCodedValues_of_codeFails {bl n : Nat} (hbl : bl < 7) (hl : lutsHold s) {syms : List Nat}
    (hn : syms.length + 1 < n) (hfit : p + bl ≤ s.limitBits) (h : codesAt s bl syms (p + bl) q) {e : Raise}
    (he : s.huffAt q bl = .error e) : s.sfCodedValues bl n p = .error e := by
  obtain ⟨k, rfl⟩ := Nat.exists_eq_succ_of_ne_zero (Nat.ne_zero_of_lt hn)
  rw [State.sfCodedValues, read_ok ⟨by omega, .inr hfit⟩, ok_bind]
  dsimp only
  rw [sfChain_of_codeFails (by omega) hl (Nat.lt_of_succ_lt_succ hn) h he, error_bind]

theorem sfCodedValues_overrunsAs {bl : Nat} (hbl : bl ≤ 32) (n p : Nat) :
    OverrunsAs s (if n = 0 then [] else [bl]) p (s.sfCodedValues bl n p) := by
  cases n with
  | zero => exact overrunsAs_nil _
  | succ k => exact (read_overrunsAs hbl p).bind _

/-- The result of scheme A from its selector, offset, weight index and coded values; its mode flag is at `p`. -/
def resultA (s : State) (cfg : SfCfg) (p : Nat) (raw : List Int × Nat) : SfResult :=
  ⟨correctFactors s.rom (s.field (p + 3) s.rom.sfOffsetBits) (s.field (p + 3 + s.rom.sfOffsetBits) 3) raw.1,
    { cfg with
      sfblen := BitVec.ofNat 4 (s.field (p + 1) 2 + 3)
      sfoff := BitVec.ofNat 8 (s.field (p + 3) s.rom.sfOffsetBits)
      sfwt := BitVec.ofNat 3 (s.field (p + 3 + s.rom.sfOffsetBits) 3) }, raw.2⟩

section
variable (hfit : p + 3 + s.rom.sfOffsetBits + 3 ≤ s.limitBits)
include hfit

/-- The reads of a selector, an offset and a weight index. -/
theorem correction_reads :
    s.read (p + 1) Config.sfSelBits = .ok (s.field (p + 1) 2, p + 3) ∧
    s.read (p + 3) s.rom.sfOffsetBits = .ok (s.field (p + 3) s.rom.sfOffsetBits, p + 3 + s.rom.sfOffsetBits) ∧
    s.read (p + 3 + s.rom.sfOffsetBits) Config.sfWeightBits =
      .ok (s.field (p + 3 + s.rom.sfOffsetBits) 3, p + 3 + s.rom.sfOffsetBits + 3) :=
  ⟨read_ok (n := 2) ⟨by decide, .inr (by omega)⟩, read_ok ⟨(romBounds s).sfOffset.trans (by decide), .inr (by omega)⟩,
    read_ok (n := 3) ⟨by decide, .inr hfit⟩⟩

theorem schemeA_eq (cfg : SfCfg) :
    s.schemeA cfg (p + 1) = s.sfCodedValues (s.field (p + 1) 2 + 3) s.nqu (p + 3 + s.rom.sfOffsetBits + 3) >>=
      fun raw => .ok (resultA s cfg p raw) := by
  obtain ⟨hsel, hoff, hwt⟩ := correction_reads hfit
  simp only [State.schemeA, hsel, hoff, hwt, ok_bind]
  rfl

end

theorem schemeA_overrunsAs (s : State) (cfg : SfCfg) (p : Nat) :
    OverrunsAs s ([2, s.rom.sfOffsetBits, 3] ++ if s.nqu = 0 then [] else [s.field p 2 + 3]) p (s.schemeA cfg p) := by
  have hb := romBounds s
  have hbl : s.field p 2 + 3 ≤ 32 := by have := field_lt s p 2; omega
  exact overrunsAs_read_bind (n := 2) (by decide) fun _ => overrunsAs_read_bind (hb.sfOffset.trans (by decide)) fun _ =>
    overrunsAs_read_bind (n := 3) (by decide) fun _ => (sfCodedValues_overrunsAs hbl _ _).bind _

theorem sfScheme_of_A (h : s.field p 1 = 0) (cfg : SfCfg) (q : Nat) :
    s.sfScheme (s.field p 1) l cfg q = s.schemeA cfg q := if_pos h

/-- A position below the limit fits the cursor. -/
theorem lt_of_le_limit (h : q ≤ s.limitBits) : q < 2 ^ 32 := by
  have := Frame.limitBits_le s
  omega

/-- The coded values of scheme A, and where they end (R171, R88). -/
theorem sfCodedValues_readable {bl n : Nat} (hbl : bl < 7) (hl : lutsHold s) {syms : List Nat}
    (hzero : n = 0 → syms = [] ∧ q = p)
    (hpos : 0 < n → p + bl ≤ s.limitBits ∧ syms.length + 1 = n ∧ codesAt s bl syms (p + bl) q) :
    ∃ raw, s.sfCodedValues bl n p = .ok (raw, q) ∧ raw.length = n ∧
      ∀ i, i < n → raw.getD i 0 = (((s.field p bl + (syms.take i).sum) % 2 ^ bl : Nat) : Int) := by
  obtain rfl | hn := Nat.eq_zero_or_pos n
  · obtain ⟨-, rfl⟩ := hzero rfl
    exact ⟨[], rfl, rfl, fun i hi => by omega⟩
  · obtain ⟨hfit, hlen, hcodes⟩ := hpos hn
    refine ⟨_, sfCodedValues_of_codes hbl hl hlen hfit hcodes, by simp [chainValues, hlen], fun i hi => ?_⟩
    exact chainValues_getD (by omega)

/-- Settles O34: the chain's values, corrected; or the first field or code that fails. -/
theorem schemeADecodesChainedDifferences : Obligations.SchemeADecodesChainedDifferences := by
  intro s c l hs hcl
  have ho := operandsOk_sfDecode hcl
  refine ⟨fun hn => ?nqu, fun bl w off wt first hn hmode hbl hoff hw hwt hfirst => ⟨?ok, ?overrun, ?code⟩⟩
  case nqu =>
    obtain ⟨t, ht, hrep, -⟩ := exec_reports (i := .sfDecode c l) hs ho
      (show sfDecodeRule c l s = _ by rw [sfDecodeRule, checkNqu_error hn, error_bind])
    exact ⟨t, ht, hrep⟩
  all_goals
    have hsel := field_lt s (cursor s + 1) 2
    subst hfirst hwt hw hoff hbl
  case ok =>
    intro syms q hl hfit hzero hpos
    have hb := romBounds s
    have hoff : s.field (cursor s + 3) s.rom.sfOffsetBits < 256 :=
      (field_lt s _ _).trans_le (Nat.pow_le_pow_right (n := 2) (by decide) hb.sfOffset)
    obtain ⟨raw, hraw, hlen, hval⟩ := sfCodedValues_readable (by omega) hl hzero hpos
    have hscheme : s.sfScheme (s.field (cursor s) 1) l (modeCfg c s) (cursor s + 1) =
        .ok (resultA s (modeCfg c s) (cursor s) (raw, q)) := by
      rw [sfScheme_of_A hmode, schemeA_eq hfit]
      exact congrArg (· >>= _) hraw
    refine ⟨_, exec_ok (i := .sfDecode c l) hs ho (sfDecodeRule_ok hn (by omega) hscheme), ?_⟩
    rw [chan_storeFactors, complete_storeFactors]
    refine ⟨rfl, ?_, ?_, toNat_ofNat_field s _ hb.sfOffset, toNat_ofNat_field s _ le_rfl, fun i hi => ?_, fun i hi h34 => ?_⟩
    · exact congrArg (BitVec.ofNat 1) hmode
    · exact (BitVec.toNat_ofNat _ _).trans (Nat.mod_eq_of_lt (by omega))
    · have hlt := Nat.mod_lt (s.field (cursor s + 3 + s.rom.sfOffsetBits + 3) (s.field (cursor s + 1) 2 + 3) +
        (syms.take i).sum) (Nat.two_pow_pos (s.field (cursor s + 1) 2 + 3))
      have h64 : 2 ^ (s.field (cursor s + 1) 2 + 3) ≤ 2 ^ 6 := Nat.pow_le_pow_right (by decide) (by omega)
      exact factorUnits_corrected (hlen ▸ hi) (hi.trans_le hn) (hval i hi) (hlt.trans_le h64) hoff
    · rw [Units.int, factorUnits_above (by rw [resultA, length_correctFactors, hlen]; exact hi) h34]
      rfl
  case overrun =>
    intro h
    have hover : OverrunsAs s ([1, 2, s.rom.sfOffsetBits, 3] ++
        if s.geom.nqu.toNat = 0 then [] else [s.field (cursor s + 1) 2 + 3]) (cursor s) (ruleOf (.sfDecode c l) s) :=
      sfDecodeRule_overrunsAs hn (sfScheme_of_A hmode _ _ ▸ schemeA_overrunsAs s _ _)
    refine exec_overruns hs ho (movesCursor_sfDecode c l) hover ?_
    simp only [fits, List.sum_append, List.sum_cons, List.sum_nil]
    by_cases h0 : s.geom.nqu.toNat = 0
    · rw [if_pos h0, List.sum_nil]
      omega
    · rw [if_neg h0, List.sum_singleton]
      omega
  case code =>
    intro syms q code pos hl hfit hk hcodes hfails
    obtain ⟨e, he, rfl, hreader⟩ := huffAt_of_codeFails hl (by omega) hfails
    have hscheme : s.sfScheme (s.field (cursor s) 1) l (modeCfg c s) (cursor s + 1) = .error ⟨e, pos, q⟩ := by
      rw [sfScheme_of_A hmode, schemeA_eq (by omega)]
      exact congrArg (· >>= _) (sfCodedValues_of_codeFails (by omega) hl hk hfit hcodes he)
    exact exec_reports_reader (i := .sfDecode c l) hs ho (movesCursor_sfDecode c l)
      (sfDecodeRule_error hn (by omega) hscheme) hreader (lt_of_le_limit (codesAt_le (by omega) hcodes hfit))

/-! ### Scheme B (R173) -/

theorem sfScheme_of_B (h : s.field p 1 = 1) (cfg : SfCfg) (q : Nat) :
    s.sfScheme (s.field p 1) .l0 cfg q = s.schemeB cfg q := if_neg (by omega)

theorem fits_replicate {n k : Nat} : fits s (List.replicate k n) p ↔ n * k = 0 ∨ p + n * k ≤ s.limitBits := by
  rw [fits, List.sum_replicate, smul_eq_mul, Nat.mul_comm]

/-- A width above 4: raw 5-bit factors. -/
theorem schemeB_raw (cfg : SfCfg) (hbl : 4 < s.field (p + 1) 2 + s.rom.sfBBase) (hfit : p + 3 ≤ s.limitBits) :
    s.schemeB cfg (p + 1) = s.readMany 5 s.nqu (p + 3) >>= fun raw =>
      .ok ⟨raw.1.map Int.ofNat, { cfg with sfblen := BitVec.ofNat 4 (s.field (p + 1) 2 + s.rom.sfBBase) }, raw.2⟩ := by
  have hsel : s.read (p + 1) Config.sfSelBits = .ok (s.field (p + 1) 2, p + 3) :=
    read_ok (n := 2) ⟨by decide, .inr (by omega)⟩
  simp only [State.schemeB, hsel, ok_bind]
  exact if_pos hbl

/-- A width up to 4: corrected factors of that width. -/
theorem schemeB_corrected (cfg : SfCfg) (hbl : ¬4 < s.field (p + 1) 2 + s.rom.sfBBase)
    (hfit : p + 3 + s.rom.sfOffsetBits + 3 ≤ s.limitBits) :
    s.schemeB cfg (p + 1) =
      s.readMany (s.field (p + 1) 2 + s.rom.sfBBase) s.nqu (p + 3 + s.rom.sfOffsetBits + 3) >>= fun raw =>
      .ok ⟨correctFactors s.rom (s.field (p + 3) s.rom.sfOffsetBits) (s.field (p + 3 + s.rom.sfOffsetBits) 3)
          (raw.1.map Int.ofNat),
        { cfg with
          sfblen := BitVec.ofNat 4 (s.field (p + 1) 2 + s.rom.sfBBase)
          sfoff := BitVec.ofNat 8 (s.field (p + 3) s.rom.sfOffsetBits)
          sfwt := BitVec.ofNat 3 (s.field (p + 3 + s.rom.sfOffsetBits) 3) }, raw.2⟩ := by
  obtain ⟨hsel, hoff, hwt⟩ := correction_reads hfit
  simp only [State.schemeB, hsel, hoff, hwt, ok_bind]
  exact if_neg hbl

theorem schemeB_raw_ok (cfg : SfCfg) (hbl : 4 < s.field (p + 1) 2 + s.rom.sfBBase)
    (hfit : p + 3 + 5 * s.nqu ≤ s.limitBits) :
    s.schemeB cfg (p + 1) = .ok ⟨((List.range s.nqu).map (fun j => s.field (p + 3 + 5 * j) 5)).map Int.ofNat,
      { cfg with sfblen := BitVec.ofNat 4 (s.field (p + 1) 2 + s.rom.sfBBase) }, p + 3 + 5 * s.nqu⟩ :=
  (schemeB_raw cfg hbl (by omega)).trans
    (congrArg (· >>= _) (readMany_of_fits (by decide) (fits_replicate.mpr (.inr hfit))))

theorem schemeB_corrected_ok (cfg : SfCfg) {bl w : Nat} (h4 : ¬4 < bl) (hbl : bl = s.field (p + 1) 2 + s.rom.sfBBase)
    (hw : w = p + 3 + s.rom.sfOffsetBits) (hfit : w + 3 + bl * s.nqu ≤ s.limitBits) :
    s.schemeB cfg (p + 1) = .ok ⟨correctFactors s.rom (s.field (p + 3) s.rom.sfOffsetBits) (s.field w 3)
        (((List.range s.nqu).map (fun j => s.field (w + 3 + bl * j) bl)).map Int.ofNat),
      { cfg with
        sfblen := BitVec.ofNat 4 bl
        sfoff := BitVec.ofNat 8 (s.field (p + 3) s.rom.sfOffsetBits)
        sfwt := BitVec.ofNat 3 (s.field w 3) }, w + 3 + bl * s.nqu⟩ := by
  subst hw hbl
  exact (schemeB_corrected cfg h4 (by omega)).trans
    (congrArg (· >>= _) (readMany_of_fits (by omega) (fits_replicate.mpr (.inr hfit))))

theorem schemeB_raw_overrunsAs (s : State) (cfg : SfCfg) (p : Nat) (hbl : 4 < s.field p 2 + s.rom.sfBBase) :
    OverrunsAs s ([2] ++ List.replicate s.nqu 5) p (s.schemeB cfg p) := by
  refine overrunsAs_read_bind (n := 2) (by decide) fun _ => ?_
  dsimp only
  rw [Config.sfBRawThreshold, if_pos hbl]
  exact (readMany_overrunsAs (by decide) _ _).bind _

theorem schemeB_corrected_overrunsAs (s : State) (cfg : SfCfg) (p : Nat) (hbl : ¬4 < s.field p 2 + s.rom.sfBBase) :
    OverrunsAs s ([2, s.rom.sfOffsetBits, 3] ++ List.replicate s.nqu (s.field p 2 + s.rom.sfBBase)) p
      (s.schemeB cfg p) := by
  have hb := romBounds s
  refine overrunsAs_read_bind (n := 2) (by decide) fun _ => ?_
  dsimp only
  rw [Config.sfBRawThreshold, if_neg hbl]
  exact overrunsAs_read_bind (hb.sfOffset.trans (by decide)) fun _ => overrunsAs_read_bind (n := 3) (by decide) fun _ =>
    (readMany_overrunsAs (by omega) _ _).bind _

theorem getD_map_range {f : Nat → Nat} {n i : Nat} (h : i < n) :
    (((List.range n).map f).map Int.ofNat).getD i 0 = (f i : Int) := by
  simp [List.getD_eq_getElem?_getD, h]

theorem length_map_range (f : Nat → Nat) (n : Nat) : (((List.range n).map f).map Int.ofNat).length = n := by simp

theorem factorUnits_raw {f : Nat → Nat} {n i : Nat} (hi : i < n) (h34 : i < 34) (hf : f i < 2 ^ 31) :
    Units.int (factorUnits (((List.range n).map f).map Int.ofNat)) i = f i := by
  rw [Units.int, factorUnits_at _ h34, getD_map_range hi, toInt_ofInt (by omega) (by omega)]

/-- Settles O35: raw factors of 5 bits, or corrected ones of the selected width. -/
theorem schemeBReadsFixedWidthFactors : Obligations.SchemeBReadsFixedWidthFactors := by
  intro s c bl hs hn hmode hbl
  have ho : operandsOk (.sfDecode c .l0) = true := operandsOk_sfDecode (fun _ => rfl)
  have hb := romBounds s
  have hsel := field_lt s (cursor s + 1) 2
  refine ⟨fun hraw => ⟨fun hfit => ?rawOk, fun hlim => ?rawOver⟩, fun off wt w hcor hoff hw hwt =>
    ⟨fun hfit => ?corOk, fun hlim => ?corOver⟩⟩
  case rawOk =>
    subst hbl
    have hscheme := (sfScheme_of_B hmode (modeCfg c s) _).trans (schemeB_raw_ok _ hraw hfit)
    refine ⟨_, exec_ok (i := .sfDecode c .l0) hs ho (sfDecodeRule_ok hn (by omega) hscheme), ?_⟩
    rw [chan_storeFactors, complete_storeFactors]
    refine ⟨rfl, ?_, fun i h34 => ?_⟩
    · dsimp only [modeCfg]
      rw [hmode]
      rfl
    · split
      next hi =>
        have hlt := field_lt s (cursor s + 3 + 5 * i) 5
        exact factorUnits_raw hi h34 (by omega)
      next hi =>
        have hle := (length_map_range (fun j => s.field (cursor s + 3 + 5 * j) 5) s.nqu).le.trans (Nat.le_of_not_lt hi)
        exact congrArg BitVec.toInt (factorUnits_above hle h34)
  case rawOver =>
    subst hbl
    have hover : OverrunsAs s ([1, 2] ++ List.replicate s.geom.nqu.toNat 5) (cursor s) (ruleOf (.sfDecode c .l0) s) :=
      sfDecodeRule_overrunsAs hn (sfScheme_of_B hmode _ _ ▸ schemeB_raw_overrunsAs s _ _ hraw)
    refine exec_overruns hs ho (movesCursor_sfDecode c .l0) hover ?_
    simp only [fits, List.sum_append, List.sum_cons, List.sum_nil, List.sum_replicate, smul_eq_mul]
    omega
  case corOk =>
    subst hwt hw hoff hbl
    have hoff : s.field (cursor s + 3) s.rom.sfOffsetBits < 256 :=
      (field_lt s _ _).trans_le (Nat.pow_le_pow_right (n := 2) (by decide) hb.sfOffset)
    have hscheme := (sfScheme_of_B hmode (modeCfg c s) _).trans (schemeB_corrected_ok _ (by omega) rfl rfl hfit)
    refine ⟨_, exec_ok (i := .sfDecode c .l0) hs ho (sfDecodeRule_ok hn (by omega) hscheme), ?_⟩
    rw [chan_storeFactors, complete_storeFactors]
    refine ⟨rfl, congrArg (BitVec.ofNat 1) hmode, (BitVec.toNat_ofNat _ _).trans (Nat.mod_eq_of_lt (by omega)),
      toNat_ofNat_field s _ hb.sfOffset, toNat_ofNat_field s _ le_rfl, fun i h34 => ?_⟩
    split
    next hi =>
      have hlt := field_lt s (cursor s + 3 + s.rom.sfOffsetBits + 3 + (s.field (cursor s + 1) 2 + s.rom.sfBBase) * i)
        (s.field (cursor s + 1) 2 + s.rom.sfBBase)
      have h64 : 2 ^ (s.field (cursor s + 1) 2 + s.rom.sfBBase) ≤ 2 ^ 6 := Nat.pow_le_pow_right (by decide) (by omega)
      refine (factorUnits_corrected (by rw [length_map_range]; exact hi) h34 (getD_map_range hi) (hlt.trans_le h64)
        hoff).trans ?_
      exact add_sub_right_comm _ _ _
    next hi =>
      have hle := (length_map_range (fun j => s.field (cursor s + 3 + s.rom.sfOffsetBits + 3 +
        (s.field (cursor s + 1) 2 + s.rom.sfBBase) * j) (s.field (cursor s + 1) 2 + s.rom.sfBBase)) s.nqu).le.trans
        (Nat.le_of_not_lt hi)
      exact congrArg BitVec.toInt (factorUnits_above ((length_correctFactors _ _ _ _).le.trans hle) h34)
  case corOver =>
    subst hwt hw hoff hbl
    have hover : OverrunsAs s ([1, 2, s.rom.sfOffsetBits, 3] ++
        List.replicate s.geom.nqu.toNat (s.field (cursor s + 1) 2 + s.rom.sfBBase)) (cursor s)
        (ruleOf (.sfDecode c .l0) s) :=
      sfDecodeRule_overrunsAs hn (sfScheme_of_B hmode _ _ ▸ schemeB_corrected_overrunsAs s _ _ (by omega))
    refine exec_overruns hs ho (movesCursor_sfDecode c .l0) hover ?_
    rw [Nat.mul_comm] at hlim
    simp only [fits, List.sum_append, List.sum_cons, List.sum_nil, List.sum_replicate, smul_eq_mul]
    omega

/-! ### Scheme C (R174) -/

theorem sfScheme_of_C (h : s.field p 1 = 1) (cfg : SfCfg) (q : Nat) :
    s.sfScheme (s.field p 1) .l1 cfg q = s.schemeC cfg q := if_neg (by omega)

theorem schemeC_eq (cfg : SfCfg) (hfit : p + 3 ≤ s.limitBits) :
    s.schemeC cfg (p + 1) = s.sfDeltas (7 + (s.field (p + 1) 2 + 2)) s.nqu 0 (p + 3) >>= fun r =>
      .ok ⟨r.1, { cfg with sfblen := BitVec.ofNat 4 (s.field (p + 1) 2 + 2) }, r.2⟩ := by
  have hsel : s.read (p + 1) Config.sfSelBits = .ok (s.field (p + 1) 2, p + 3) :=
    read_ok (n := 2) ⟨by decide, .inr (by omega)⟩
  simp only [State.schemeC, hsel, ok_bind]
  rfl

theorem schemeC_ok (cfg : SfCfg) (hl : lutsHold s) (hfit : p + 3 ≤ s.limitBits) {syms : List Nat}
    (hlen : syms.length = s.nqu) (hcodes : codesAt s (7 + (s.field (p + 1) 2 + 2)) syms (p + 3) q) :
    s.schemeC cfg (p + 1) = .ok ⟨(List.range s.nqu).map (fun j => Units.int s.ch0.sf (0 + j) +
        symbolMeans (7 + (s.field (p + 1) 2 + 2)) (syms.getD j 0)),
      { cfg with sfblen := BitVec.ofNat 4 (s.field (p + 1) 2 + 2) }, q⟩ := by
  have hsel := field_lt s (p + 1) 2
  rw [schemeC_eq cfg hfit, ← hlen]
  exact congrArg (· >>= _) (sfDeltas_of_codes (by omega) hl hcodes 0)

theorem complete_storeFactors_c1 (s : State) {r : SfResult} {k : SfCfg} (h : r.cfg = k) :
    (storeFactors .c1 s r).complete = finished { s with
      ch1 := { s.ch1 with sf := (storeFactors .c1 s r).complete.ch1.sf, sfcfg := k }
      brPos := BitVec.ofNat 32 r.pos } := by
  subst h
  unfold storeFactors
  generalize factorUnits r.factors = f
  rfl

/-- The sum of a factor and a difference in its int32 cell (R8). -/
theorem ofInt_toInt_add (x : Word) (d : Int) : Word.ofInt (x.toInt + d) = x + BitVec.ofInt 32 d := by
  rw [Word.ofInt, BitVec.ofInt_add, BitVec.ofInt_toInt]

/-- Settles O36: the other channel's factors and the signed differences. -/
theorem schemeCAddsDifferencesToChannelZero : Obligations.SchemeCAddsDifferencesToChannelZero := by
  intro s bl hs hn hmode hbl
  have hsel := field_lt s (cursor s + 1) 2
  subst hbl
  refine ⟨fun syms q hl hfit hlen hcodes => ?ok, fun hlim => ?overrun, fun syms q code pos hl hfit hk hcodes hfails => ?code⟩
  case ok =>
    have hscheme := (sfScheme_of_C hmode (modeCfg .c1 s) _).trans (schemeC_ok _ hl hfit hlen hcodes)
    refine ⟨_, exec_ok (i := .sfDecode .c1 .l1) hs rfl (sfDecodeRule_ok hn (by omega) hscheme), ?_, fun i hi => ?_,
      fun i hi h34 => ?_⟩
    · refine complete_storeFactors_c1 s ?_
      dsimp only [modeCfg]
      rw [hmode]
      rfl
    · have hmeans : symbolMeans (7 + (s.field (cursor s + 1) 2 + 2)) (syms.getD i 0) =
          signed (s.field (cursor s + 1) 2 + 2) (syms.getD i 0) := by
        rw [symbolMeans, if_pos (Nat.le_add_right _ _), Nat.add_sub_cancel_left]
      have hget := List.getD_eq_getElem ((List.range s.nqu).map (fun j => Units.int s.ch0.sf (0 + j) +
        symbolMeans (7 + (s.field (cursor s + 1) 2 + 2)) (syms.getD j 0))) 0 (n := i) (by simpa using (show i < s.nqu from hi))
      refine (factorUnits_at _ (hi.trans_le hn)).trans ?_
      rw [hget, List.getElem_map, List.getElem_range, Nat.zero_add, hmeans]
      exact ofInt_toInt_add _ _
    · exact factorUnits_above (by simpa using (show s.nqu ≤ i from hi)) h34
  case overrun =>
    have hover : OverrunsAs s [1, 2] (cursor s) (ruleOf (.sfDecode .c1 .l1) s) :=
      sfDecodeRule_overrunsAs hn (sfScheme_of_C hmode _ _ ▸ (read_overrunsAs (by decide) _).bind _)
    refine exec_overruns hs rfl (movesCursor_sfDecode .c1 .l1) hover ?_
    simp only [fits, List.sum_cons, List.sum_nil]
    omega
  case code =>
    obtain ⟨e, he, rfl, hreader⟩ := huffAt_of_codeFails hl (by omega) hfails
    have hscheme : s.sfScheme (s.field (cursor s) 1) .l1 (modeCfg .c1 s) (cursor s + 1) = .error ⟨e, pos, q⟩ := by
      rw [sfScheme_of_C hmode, schemeC_eq _ hfit]
      exact congrArg (· >>= _) (sfDeltas_of_codeFails (by omega) hl hk hcodes he 0)
    exact exec_reports_reader (i := .sfDecode .c1 .l1) hs rfl (movesCursor_sfDecode .c1 .l1)
      (sfDecodeRule_error hn (by omega) hscheme) hreader (lt_of_le_limit (codesAt_le (by omega) hcodes hfit))

end Sys2Proof.Proofs.ScaleFactors
end

section
/-! The unit layout (R190), and a loop over the units that stores the lines each of them gives (R191, R195). -/

namespace Sys2Proof.Proofs.UnitLoop

open Sys2Proof.Machine Sys2Proof.Claims Sys2Proof.Proofs.FieldReads

variable {s : State} {i j k n : Nat}

/-! ### The layout (R190) -/

/-- The constraints on one unit. -/
structure UnitBounds (c : Config) (i : Nat) : Prop where
  size_pos : 1 ≤ c.nsps i
  inside : c.isp i + c.nsps i ≤ 256
  size_shape : c.nsps i = 2 ∨ c.nsps i % 4 = 0

theorem unitBounds (c : ValidConfig) (h : i < 34) : UnitBounds c.rom i := by
  have hwf := c.ok
  simp only [Config.wf, Config.layoutOk, Bool.and_eq_true, List.all_eq_true, decide_eq_true_eq, beq_iff_eq,
    Bool.or_eq_true] at hwf
  obtain ⟨⟨-, ⟨⟨hlen, hall⟩, -⟩, -⟩, -⟩ := hwf
  have hi : i < c.rom.quRom.length := by omega
  obtain ⟨⟨h1, h2⟩, h3⟩ := hall _ (List.getElem_mem hi)
  have hget : c.rom.quRom.getD i ⟨0, 0⟩ = c.rom.quRom[i] := List.getD_eq_getElem _ _ hi
  exact ⟨by rwa [Config.nsps, hget], by rwa [Config.isp, Config.nsps, hget], by rwa [Config.nsps, hget]⟩

theorem isp_succ (c : ValidConfig) (h : i < 33) : c.rom.isp (i + 1) = c.rom.isp i + c.rom.nsps i := by
  have hwf := c.ok
  simp only [Config.wf, Config.layoutOk, Bool.and_eq_true, List.all_eq_true, beq_iff_eq] at hwf
  obtain ⟨⟨-, -, hadj⟩, -⟩ := hwf
  exact hadj i (List.mem_range.mpr h)

/-- A later unit begins where or after an earlier one ends. -/
theorem isp_add_nsps_le (c : ValidConfig) (hij : i < j) (hj : j < 34) : c.rom.isp i + c.rom.nsps i ≤ c.rom.isp j := by
  induction j, hij using Nat.le_induction with
  | base => exact (isp_succ c (by omega)).ge
  | succ j hij ih => rw [isp_succ c (by omega)]; exact (ih (by omega)).trans (Nat.le_add_right _ _)

theorem unit_unique (c : ValidConfig) (hi : i < 34) (hj : j < 34) (hin : inUnit c.rom i n) (hjn : inUnit c.rom j n) :
    i = j := by
  obtain ⟨hi1, hi2⟩ := hin
  obtain ⟨hj1, hj2⟩ := hjn
  obtain h | h | h := Nat.lt_trichotomy i j
  · have := isp_add_nsps_le c h hj
    omega
  · exact h
  · have := isp_add_nsps_le c h hi
    omega

/-! ### The loop -/

/-- A loop over the units listed: unit `i` reads its lines at the position reached, and they are stored from its first
line up. -/
def unitLoop (c : Config) (unit : Nat → Nat → Except Raise (List Int × Nat)) :
    List Nat → Lines → Nat → Except Raise (Lines × Nat)
  | [], q, pos => .ok (q, pos)
  | i :: is, q, pos => do
    let r ← unit i pos
    unitLoop c unit is (Lines.putList q (c.isp i) (r.1.map Word.ofInt)) r.2

variable {unit : Nat → Nat → Except Raise (List Int × Nat)}

theorem unitLoop_append (c : Config) (is js : List Nat) (q : Lines) (pos : Nat) :
    unitLoop c unit (is ++ js) q pos = unitLoop c unit is q pos >>= fun r => unitLoop c unit js r.1 r.2 := by
  induction is generalizing q pos with
  | nil => rfl
  | cons i is ih =>
    simp only [List.cons_append, unitLoop, bind_assoc]
    exact congrArg _ (funext fun r => ih _ _)

theorem unitLoop_singleton (c : Config) (i : Nat) (q : Lines) (pos : Nat) :
    unitLoop c unit [i] q pos =
      unit i pos >>= fun r => .ok (Lines.putList q (c.isp i) (r.1.map Word.ofInt), r.2) := rfl

theorem range_eq_append (h : k ≤ n) : ∃ rest, List.range n = List.range k ++ rest :=
  ⟨_, by rw [← Nat.add_sub_cancel' h, List.range_add]⟩

/-- An error in the first units is the loop's. -/
theorem unitLoop_range_error (c : Config) (h : k ≤ n) {q : Lines} {pos : Nat} {e : Raise}
    (he : unitLoop c unit (List.range k) q pos = .error e) : unitLoop c unit (List.range n) q pos = .error e := by
  obtain ⟨rest, hrest⟩ := range_eq_append h
  rw [hrest, unitLoop_append, he, error_bind]

/-- The lines of the first `k` units hold the values listed for them, 0 after a list's end, and every other line is 0. -/
def unitsHold (c : Config) (k : Nat) (vals : Nat → List Int) (q : Lines) : Prop :=
  (∀ i, i < k → ∀ j, j < c.nsps i → Lines.at q (c.isp i + j) = Word.ofInt ((vals i).getD j 0)) ∧
  ∀ n, n < 256 → (∀ i, i < k → ¬inUnit c i n) → Lines.at q n = 0

theorem getD_map_ofInt (vals : List Int) (j : Nat) : (vals.map Word.ofInt).getD j 0 = Word.ofInt (vals.getD j 0) := by
  rw [List.getD_eq_getElem?_getD, List.getD_eq_getElem?_getD, List.getElem?_map]
  cases vals[j]? <;> rfl

theorem unitsHold_zero (c : Config) (vals : Nat → List Int) : unitsHold c 0 vals Lines.zero :=
  ⟨fun _ h => absurd h (Nat.not_lt_zero _), fun n _ _ => lines_at_zero n⟩

theorem unitsHold_succ {c : ValidConfig} (hk : k < 34) {vals : Nat → List Int} {q : Lines}
    (hlen : (vals k).length ≤ c.rom.nsps k) (h : unitsHold c.rom k vals q) :
    unitsHold c.rom (k + 1) vals (Lines.putList q (c.rom.isp k) ((vals k).map Word.ofInt)) := by
  obtain ⟨hin, hout⟩ := h
  have hbounds := unitBounds c hk
  have hinside := hbounds.inside
  refine ⟨fun i hi j hj => ?_, fun n hn hnot => ?_⟩
  · rw [lines_at_putList, List.length_map]
    obtain rfl | hlt := Nat.eq_or_lt_of_le (Nat.lt_succ_iff.mp hi)
    · rw [Nat.add_sub_cancel_left, getD_map_ofInt]
      by_cases hjl : j < (vals i).length
      · rw [if_pos (by omega)]
      · rw [if_neg (by omega), hout _ (by omega), List.getD_eq_default _ _ (Nat.le_of_not_lt hjl)]
        · rfl
        · exact fun i' hi' hin' => absurd (unit_unique c (hi'.trans hk) hk hin' ⟨Nat.le_add_right _ _, by omega⟩) hi'.ne
    · have hbefore := isp_add_nsps_le c hlt hk
      rw [if_neg (by omega), hin i hlt j hj]
  · have hk' : ¬inUnit c.rom k n := hnot k (Nat.lt_succ_self k)
    unfold inUnit at hk'
    rw [lines_at_putList, List.length_map, if_neg (by omega)]
    exact hout n hn fun i hi => hnot i (hi.trans (Nat.lt_succ_self k))

/-- A loop whose units all succeed. -/
theorem unitLoop_range_ok {c : ValidConfig} {vals : Nat → List Int} {start : Nat → Nat} (hk : k ≤ 34)
    (h : ∀ i, i < k → unit i (start i) = .ok (vals i, start (i + 1)) ∧ (vals i).length ≤ c.rom.nsps i) :
    ∃ q, unitLoop c.rom unit (List.range k) Lines.zero (start 0) = .ok (q, start k) ∧ unitsHold c.rom k vals q := by
  induction k with
  | zero => exact ⟨_, rfl, unitsHold_zero c.rom vals⟩
  | succ k ih =>
    obtain ⟨q, hq, hhold⟩ := ih (by omega) fun i hi => h i (hi.trans (Nat.lt_succ_self k))
    obtain ⟨hunit, hlen⟩ := h k (Nat.lt_succ_self k)
    refine ⟨_, ?_, unitsHold_succ hk hlen hhold⟩
    rw [List.range_succ, unitLoop_append, hq, ok_bind, unitLoop_singleton]
    dsimp only
    rw [hunit, ok_bind]

/-- The loop reaches unit `k` and ends in that unit's error. -/
theorem unitLoop_range_error_at {c : ValidConfig} {vals : Nat → List Int} {start : Nat → Nat} (hk : k ≤ 34) (hkn : k < n)
    (h : ∀ i, i < k → unit i (start i) = .ok (vals i, start (i + 1)) ∧ (vals i).length ≤ c.rom.nsps i) {e : Raise}
    (he : unit k (start k) = .error e) :
    unitLoop c.rom unit (List.range n) Lines.zero (start 0) = .error e := by
  obtain ⟨q, hq, -⟩ := unitLoop_range_ok hk h
  refine unitLoop_range_error c.rom (Nat.succ_le_of_lt hkn) ?_
  rw [List.range_succ, unitLoop_append, hq, ok_bind, unitLoop_singleton]
  dsimp only
  rw [he, error_bind]

/-! ### A loop that overruns -/

variable {fields : Nat → List Nat} {start : Nat → Nat}

theorem start_eq (hstart : ∀ i, start (i + 1) = start i + (fields i).sum) (k : Nat) :
    start k = start 0 + ((List.range k).flatMap fields).sum := by
  induction k with
  | zero => simp
  | succ k ih => rw [hstart, ih, List.range_succ, List.flatMap_append, List.sum_append]; simp [Nat.add_assoc]

theorem fits_unit (hstart : ∀ i, start (i + 1) = start i + (fields i).sum)
    (h : fits s ((List.range k).flatMap fields) (start 0)) (hi : i < k) : fits s (fields i) (start i) := by
  obtain ⟨rest, hrest⟩ := range_eq_append (Nat.succ_le_of_lt hi)
  rw [hrest, List.range_succ, List.append_assoc, List.flatMap_append, List.flatMap_append, List.flatMap_singleton,
    fits_append, fits_append, ← start_eq hstart i] at h
  exact h.2.1

/-- Units whose fields do not fit overrun, if the units before the failing one can be read. -/
theorem unitLoop_overrunsAs (c : Config) (hstart : ∀ i, start (i + 1) = start i + (fields i).sum)
    (hok : ∀ i, i < k → fits s (fields i) (start i) → ∃ vals, unit i (start i) = .ok (vals, start (i + 1)))
    (hover : ∀ i, i ≤ k → OverrunsAs s (fields i) (start i) (unit i (start i))) (q : Lines) :
    OverrunsAs s ((List.range (k + 1)).flatMap fields) (start 0)
      (unitLoop c unit (List.range (k + 1)) q (start 0)) := by
  have hreach {m : Nat} (hm : m ≤ k) (hfit : fits s ((List.range m).flatMap fields) (start 0)) :
      ∃ q', unitLoop c unit (List.range m) q (start 0) = .ok (q', start m) := by
    induction m with
    | zero => exact ⟨q, rfl⟩
    | succ m ih =>
      obtain ⟨vals, hvals⟩ := hok m hm (fits_unit hstart hfit (Nat.lt_succ_self m))
      rw [List.range_succ, List.flatMap_append, fits_append] at hfit
      obtain ⟨q', hq'⟩ := ih (by omega) hfit.1
      refine ⟨Lines.putList q' (c.isp m) (vals.map Word.ofInt), ?_⟩
      rw [List.range_succ, unitLoop_append, hq', ok_bind, unitLoop_singleton]
      dsimp only
      rw [hvals, ok_bind]
  suffices hprefix : ∀ m, m ≤ k + 1 → OverrunsAs s ((List.range m).flatMap fields) (start 0)
      (unitLoop c unit (List.range m) q (start 0)) from hprefix (k + 1) le_rfl
  intro m
  induction m with
  | zero => exact fun _ => overrunsAs_nil _
  | succ m ih =>
    intro hm
    rw [List.range_succ, List.flatMap_append, List.flatMap_singleton, unitLoop_append]
    refine (ih (by omega)).append fun hfit => ?_
    obtain ⟨q', hq'⟩ := hreach (by omega) hfit
    rw [hq', ok_bind, ← start_eq hstart m, unitLoop_singleton]
    exact (hover m (by omega)).bind _

end Sys2Proof.Proofs.UnitLoop
end

section
/-! The quantized-spectrum extractor: `SPEC_DECODE` (R191 to R194) and `SPEC_FINE_DECODE` (R195). -/

namespace Sys2Proof.Proofs.Spectrum

open Sys2Proof.Machine Sys2Proof.Claims Sys2Proof.Proofs.Commands Sys2Proof.Proofs.FieldReads
  Sys2Proof.Proofs.Huffman Sys2Proof.Proofs.Precision Sys2Proof.Proofs.UnitLoop

variable {s t : State} {c : Chan} {i j k n p a : Nat}

/-! ### Joint codes (R192, R193) -/

theorem jointNibble_sub_one (m e j : Nat) : (jointNibble m e j : Int) - 1 = nibbleValue m e j := by
  rw [jointNibble, nibbleValue, Nat.shiftRight_eq_div_pow, pow_mul, show 2 ^ 2 = 4 by rfl]

theorem nibbleValue_bounds (m e j : Nat) : -1 ≤ nibbleValue m e j ∧ nibbleValue m e j ≤ 2 := by
  rw [nibbleValue]
  omega

theorem joint2At_eq (h : a + 3 ≤ s.limitBits) :
    s.joint2At a = match s.rom.joint2 (s.field a 3) with
      | none => .error (raiseAt .jointInvalid (a + 3))
      | some e => .ok (jointValues 2 e, a + 3) := by
  have hread : s.read a Config.joint2Bits = .ok (s.field a 3, a + 3) := read_ok ⟨by decide, .inr h⟩
  rw [State.joint2At, hread, ok_bind]
  rfl

theorem joint4At_eq (h : a + 7 ≤ s.limitBits) :
    s.joint4At a = match s.rom.joint4 (s.field a 7) with
      | none => .error (raiseAt .jointInvalid (a + 7))
      | some e => .ok (jointValues 4 e, a + 7) := by
  have hread : s.read a Config.joint4Bits = .ok (s.field a 7, a + 7) := read_ok ⟨by decide, .inr h⟩
  rw [State.joint4At, hread, ok_bind]
  rfl

theorem joint4Groups_ok {g : Nat} (hfit : a + 7 * g ≤ s.limitBits)
    (h : ∀ i, i < g → s.rom.joint4 (s.field (a + 7 * i) 7) ≠ none) :
    s.joint4Groups g a = .ok ((List.range (4 * g)).map (fun j =>
      ((s.rom.joint4 (s.field (a + 7 * (j / 4)) 7)).map (nibbleValue 4 · (j % 4))).getD 0), a + 7 * g) := by
  induction g generalizing a with
  | zero => rfl
  | succ g ih =>
    obtain ⟨e, he⟩ := Option.ne_none_iff_exists'.mp (h 0 (Nat.succ_pos g))
    have hrest := ih (a := a + 7) (by omega) fun i hi => by
      have := h (i + 1) (Nat.succ_lt_succ hi)
      rwa [show a + 7 + 7 * i = a + 7 * (i + 1) by ring]
    rw [State.joint4Groups, joint4At_eq (by omega), show s.rom.joint4 (s.field a 7) = some e from he]
    dsimp only
    rw [ok_bind, hrest, ok_bind, pure_eq_ok, show 4 * (g + 1) = 4 + 4 * g by ring, List.range_add, List.map_append,
      List.map_map]
    congr 3
    · refine List.map_congr_left fun j hj => ?_
      have hj4 : j < 4 := List.mem_range.mp hj
      rw [jointNibble_sub_one, Nat.div_eq_of_lt hj4, Nat.mod_eq_of_lt hj4, Nat.mul_zero, Nat.add_zero,
        show s.rom.joint4 (s.field a 7) = some e from he]
      rfl
    · refine List.map_congr_left fun j _ => ?_
      simp only [Function.comp, Nat.add_mod_left, show (4 + j) / 4 = 1 + j / 4 by omega,
        show a + 7 * (1 + j / 4) = a + 7 + 7 * (j / 4) by ring]
    · ring

theorem joint4Groups_invalid {g : Nat} (hk : k < g) (hfit : a + 7 * (k + 1) ≤ s.limitBits)
    (h : ∀ i, i < k → s.rom.joint4 (s.field (a + 7 * i) 7) ≠ none) (hnone : s.rom.joint4 (s.field (a + 7 * k) 7) = none) :
    s.joint4Groups g a = .error (raiseAt .jointInvalid (a + 7 * (k + 1))) := by
  induction k generalizing a g with
  | zero =>
    obtain ⟨g, rfl⟩ := Nat.exists_eq_succ_of_ne_zero hk.ne'
    rw [State.joint4Groups, joint4At_eq (by omega), show s.rom.joint4 (s.field a 7) = none from hnone]
    rfl
  | succ k ih =>
    obtain ⟨g, rfl⟩ := Nat.exists_eq_succ_of_ne_zero (Nat.ne_zero_of_lt hk)
    obtain ⟨e, he⟩ := Option.ne_none_iff_exists'.mp (h 0 (Nat.succ_pos k))
    have hshift (i : Nat) : a + 7 + 7 * i = a + 7 * (i + 1) := by ring
    have hrest := ih (a := a + 7) (g := g) (by omega) (by omega)
      (fun i hi => by rw [hshift]; exact h (i + 1) (Nat.succ_lt_succ hi)) (by rw [hshift]; exact hnone)
    rw [State.joint4Groups, joint4At_eq (by omega), show s.rom.joint4 (s.field a 7) = some e from he]
    dsimp only
    rw [ok_bind, hrest, error_bind, hshift]

theorem joint4Groups_overrunsAs {g : Nat}
    (h : ∀ i, i < g → a + 7 * (i + 1) ≤ s.limitBits → s.rom.joint4 (s.field (a + 7 * i) 7) ≠ none) :
    OverrunsAs s (List.replicate g 7) a (s.joint4Groups g a) := by
  induction g generalizing a with
  | zero => exact overrunsAs_nil _
  | succ g ih =>
    have hread : OverrunsAs s [7] a (s.joint4At a) := (read_overrunsAs (n := 7) (by decide) a).bind _
    refine hread.append (ns := [7]) fun hfit => ?_
    have hfit : a + 7 ≤ s.limitBits := (fits_singleton.mp hfit).resolve_left (by decide)
    obtain ⟨e, he⟩ := Option.ne_none_iff_exists'.mp (h 0 (Nat.succ_pos g) hfit)
    rw [joint4At_eq hfit, show s.rom.joint4 (s.field a 7) = some e from he]
    dsimp only
    rw [ok_bind, List.sum_singleton]
    refine (ih fun i hi hle => ?_).bind _
    rw [show a + 7 + 7 * i = a + 7 * (i + 1) by ring]
    exact h (i + 1) (Nat.succ_lt_succ hi) (by omega)

/-! ### One unit of the coarse spectrum (R191, R194) -/

/-- The values of the `n` lines of a unit, 0 for an `INVALID` code. -/
def coarseValues (s : State) (p n a : Nat) : List Int := (List.range n).map (fun j => (coarseValue s p n a j).getD 0)

theorem sum_coarseFields (p n : Nat) : (coarseFields p n).sum = coarseBits p n := by
  unfold coarseFields coarseBits
  split_ifs <;> simp [Nat.mul_comm]

/-- Where the joint code of line `j` of a unit of `n` lines ends. -/
def codeEnd (n a j : Nat) : Nat := a + if n = 2 then 3 else 7 * (j / 4 + 1)

theorem coarseValue_sample (hp : p ≠ 1) (j : Nat) : coarseValue s p n a j =
    some (signed (sampleWidth p) (s.field (a + j * sampleWidth p) (sampleWidth p))) := by
  rw [coarseValue, if_neg hp]

theorem coarseValue_joint2 (j : Nat) :
    coarseValue s 1 2 a j = (s.rom.joint2 (s.field a 3)).map (nibbleValue 2 · j) := by
  rw [coarseValue, if_pos rfl, if_pos rfl]

theorem coarseValue_joint4 (hn : n ≠ 2) (j : Nat) :
    coarseValue s 1 n a j = (s.rom.joint4 (s.field (a + 7 * (j / 4)) 7)).map (nibbleValue 4 · (j % 4)) := by
  rw [coarseValue, if_pos rfl, if_neg hn]

theorem unitLines_ok (hp : p ≤ 15) (hn : n = 2 ∨ n % 4 = 0) (hpos : 1 ≤ n) (hfit : fits s (coarseFields p n) a)
    (hval : ∀ j, j < n → coarseValue s p n a j ≠ none) :
    s.unitLines p n a = .ok (coarseValues s p n a, a + coarseBits p n) := by
  rw [fits, sum_coarseFields] at hfit
  unfold State.unitLines coarseValues
  by_cases h1 : p = 1
  · subst h1
    rw [if_pos rfl]
    by_cases h2 : n = 2
    · subst h2
      have hbits : coarseBits 1 2 = 3 := rfl
      have hv := hval 0 (by decide)
      rw [coarseValue_joint2, ne_eq, Option.map_eq_none_iff] at hv
      obtain ⟨e, he⟩ := Option.ne_none_iff_exists'.mp hv
      rw [if_pos rfl, joint2At_eq (by omega), he]
      simp only [coarseValue_joint2, he, Option.map_some, Option.getD_some, jointValues, jointNibble_sub_one, hbits]
    · obtain ⟨g, rfl⟩ : ∃ g, n = 4 * g := ⟨n / 4, by omega⟩
      have hg : 4 * g / 4 = g := by omega
      have hbits : coarseBits 1 (4 * g) = 7 * g := by rw [coarseBits, if_pos rfl, if_neg h2, hg]
      rw [if_neg h2, hg, joint4Groups_ok (by omega) fun i hi => ?_]
      · simp only [coarseValue_joint4 h2, hbits]
      · have hv := hval (4 * i) (by omega)
        rwa [coarseValue_joint4 h2, ne_eq, Option.map_eq_none_iff, Nat.mul_div_cancel_left i (by decide)] at hv
  · have hw : sampleWidth p ≤ 32 := Errors.wlRom_le hp
    have hbits : coarseBits p n = sampleWidth p * n := by rw [coarseBits, if_neg h1, Nat.mul_comm]
    have hreads := readManySigned_of_fits (s := s) (p := a) (k := n) hw
      (by rw [fits, List.sum_replicate, smul_eq_mul, Nat.mul_comm, ← hbits]; exact hfit)
    rw [if_neg h1, hbits]
    refine hreads.trans ?_
    simp only [coarseValue_sample h1, Option.getD_some, Nat.mul_comm]

theorem unitLines_invalid (hn : n = 2 ∨ n % 4 = 0) (hj : j < n) (hend : codeEnd n a j ≤ s.limitBits)
    (h : ∀ j', j' < j → coarseValue s 1 n a j' ≠ none) (hnone : coarseValue s 1 n a j = none) :
    s.unitLines 1 n a = .error (raiseAt .jointInvalid (codeEnd n a j)) := by
  unfold State.unitLines codeEnd at *
  rw [if_pos rfl]
  by_cases h2 : n = 2
  · subst h2
    rw [coarseValue_joint2, Option.map_eq_none_iff] at hnone
    rw [if_pos rfl] at hend
    rw [if_pos rfl, if_pos rfl, joint2At_eq hend, hnone]
  · rw [coarseValue_joint4 h2, Option.map_eq_none_iff] at hnone
    rw [if_neg h2] at hend
    rw [if_neg h2, if_neg h2]
    refine joint4Groups_invalid (by omega) hend (fun i hi => ?_) hnone
    have hv := h (4 * i) (by omega)
    rwa [coarseValue_joint4 h2, ne_eq, Option.map_eq_none_iff, Nat.mul_div_cancel_left i (by decide)] at hv

theorem unitLines_overrunsAs (hp : p ≤ 15)
    (h : ∀ j, j < n → codeEnd n a j ≤ s.limitBits → coarseValue s p n a j ≠ none) :
    OverrunsAs s (coarseFields p n) a (s.unitLines p n a) := by
  unfold State.unitLines coarseFields
  by_cases h1 : p = 1
  · subst h1
    rw [if_pos rfl, if_pos rfl]
    by_cases h2 : n = 2
    · rw [if_pos h2, if_pos h2]
      exact (read_overrunsAs (n := 3) (by decide) a).bind _
    · rw [if_neg h2, if_neg h2]
      refine joint4Groups_overrunsAs fun i hi hle => ?_
      have hdiv : 4 * i / 4 = i := Nat.mul_div_cancel_left i (by decide)
      have hv := h (4 * i) (by omega) (by rw [codeEnd, if_neg h2, hdiv]; exact hle)
      rwa [coarseValue_joint4 h2, ne_eq, Option.map_eq_none_iff, hdiv] at hv
  · rw [if_neg h1, if_neg h1]
    exact readManySigned_overrunsAs (Errors.wlRom_le hp) n a

theorem signed_bounds (h : n ≤ 16) {v : Nat} (hv : v < 2 ^ n) : -2 ^ 31 ≤ signed n v ∧ signed n v < 2 ^ 31 := by
  have hn : (2 : Int) ^ n ≤ 2 ^ 16 := pow_le_pow_right₀ (by decide) h
  have hv' : (v : Int) < 2 ^ n := by exact_mod_cast hv
  unfold signed
  split_ifs <;> omega

/-- A line's value fits its int32 cell. -/
theorem coarseValue_bounds (hp : p ≤ 15) {v : Int} (h : coarseValue s p n a j = some v) : -2 ^ 31 ≤ v ∧ v < 2 ^ 31 := by
  by_cases h1 : p = 1
  · subst h1
    have key {m j' : Nat} {o : Option Nat} (ho : o.map (nibbleValue m · j') = some v) : -2 ^ 31 ≤ v ∧ v < 2 ^ 31 := by
      obtain ⟨e, -, rfl⟩ := Option.map_eq_some_iff.mp ho
      have := nibbleValue_bounds m e j'
      omega
    by_cases h2 : n = 2
    · subst h2
      exact key (coarseValue_joint2 (s := s) j ▸ h)
    · exact key (coarseValue_joint4 (s := s) h2 j ▸ h)
  · rw [coarseValue_sample h1, Option.some_inj] at h
    subst h
    exact signed_bounds (by unfold sampleWidth; split <;> omega) (field_lt s _ _)

/-! ### The coarse spectrum (R191) -/

/-- Unit `i` of `SPEC_DECODE`. -/
def coarseUnit (s : State) (prec : Units) (i pos : Nat) : Except Raise (List Int × Nat) :=
  precIndex (Units.int prec i) pos >>= fun p => s.unitLines p (s.rom.nsps i) pos

theorem specUnits_eq (s : State) (prec : Units) (is : List Nat) (q : Lines) (pos : Nat) :
    s.specUnits prec is q pos = unitLoop s.rom (coarseUnit s prec) is q pos := by
  induction is generalizing q pos with
  | nil => rfl
  | cons i is ih =>
    rw [State.specUnits, unitLoop, coarseUnit, bind_assoc]
    exact congrArg _ (funext fun p => congrArg _ (funext fun r => ih _ _))

theorem specDecodeRule_eq (h : s.nqu ≤ 34) : specDecodeRule c s =
    unitLoop s.rom (coarseUnit s (s.chan c).prec) (List.range s.nqu) Lines.zero (cursor s) >>= fun r =>
      .ok ((s.setChan c { s.chan c with qspec := r.1 }).setBrPos r.2) := by
  rw [specDecodeRule, checkNqu_ok h, ok_bind, specUnits_eq]
  rfl

theorem precIndex_of_inRange (h : precInRange s c i) (pos : Nat) :
    precIndex (Units.int (s.chan c).prec i) pos = .ok (precOf s c i) := by
  obtain ⟨h0, h15⟩ := h
  rw [precIndex, if_neg (by omega)]
  rfl

theorem precIndex_of_not_inRange (h : ¬precInRange s c i) (pos : Nat) :
    precIndex (Units.int (s.chan c).prec i) pos = .error (raiseAt .indexRange pos) := by
  rw [precInRange] at h
  rw [precIndex, if_pos (by omega)]

theorem precOf_le (h : precInRange s c i) : precOf s c i ≤ 15 := by
  obtain ⟨h0, h15⟩ := h
  unfold precOf
  omega

/-- Where unit `i` starts, its fields, and the values of its lines, in the coarse spectrum at the cursor. -/
def unitFields (s : State) (c : Chan) (i : Nat) : List Nat := coarseFields (precOf s c i) (s.rom.nsps i)

def unitValues (s : State) (c : Chan) (i : Nat) : List Int :=
  coarseValues s (precOf s c i) (s.rom.nsps i) (specStart s c i)

theorem bitsBefore_succ (f : Nat → Nat) (k : Nat) : bitsBefore f (k + 1) = bitsBefore f k + f k := by
  simp [bitsBefore, List.range_succ]

theorem specStart_zero (s : State) (c : Chan) : specStart s c 0 = cursor s := rfl

theorem specStart_succ (s : State) (c : Chan) (i : Nat) : specStart s c (i + 1) = specStart s c i + (unitFields s c i).sum := by
  rw [specStart, specStart, bitsBefore_succ, unitFields, sum_coarseFields, Nat.add_assoc]
  rfl

theorem coarseUnit_ok (hi : i < 34) (hp : precInRange s c i) (hval : ∀ j, j < s.rom.nsps i → specValue s c i j ≠ none)
    (hfit : fits s (unitFields s c i) (specStart s c i)) :
    coarseUnit s (s.chan c).prec i (specStart s c i) = .ok (unitValues s c i, specStart s c (i + 1)) := by
  have hb : UnitBounds s.rom i := unitBounds s.cfg hi
  rw [coarseUnit, precIndex_of_inRange hp, ok_bind, specStart_succ, unitFields, sum_coarseFields]
  exact unitLines_ok (precOf_le hp) hb.size_shape hb.size_pos hfit hval

theorem coarseUnit_indexRange (h : ¬precInRange s c i) (pos : Nat) :
    coarseUnit s (s.chan c).prec i pos = .error (raiseAt .indexRange pos) := by
  rw [coarseUnit, precIndex_of_not_inRange h, error_bind]

/-- Only a unit of precision 1 holds joint codes. -/
theorem precOf_eq_one (h : specValue s c i j = none) : precOf s c i = 1 ∧ precInRange s c i := by
  have h1 : precOf s c i = 1 := by
    by_contra hne
    rw [specValue, coarseValue_sample hne] at h
    cases h
  refine ⟨h1, ?_⟩
  unfold precOf at h1
  unfold precInRange
  omega

theorem coarseUnit_invalid (hi : i < 34) (hj : j < s.rom.nsps i) (hend : jointEnd s c i j ≤ s.limitBits)
    (h : ∀ j', j' < j → specValue s c i j' ≠ none) (hnone : specValue s c i j = none) :
    coarseUnit s (s.chan c).prec i (specStart s c i) = .error (raiseAt .jointInvalid (jointEnd s c i j)) := by
  have hb : UnitBounds s.rom i := unitBounds s.cfg hi
  obtain ⟨h1, hp⟩ := precOf_eq_one hnone
  unfold specValue at h hnone
  rw [h1] at h hnone
  rw [coarseUnit, precIndex_of_inRange hp, ok_bind, h1]
  exact unitLines_invalid hb.size_shape hj hend h hnone

theorem coarseUnit_overrunsAs (hp : precInRange s c i)
    (h : ∀ j, j < s.rom.nsps i → jointEnd s c i j ≤ s.limitBits → specValue s c i j ≠ none) :
    OverrunsAs s (unitFields s c i) (specStart s c i) (coarseUnit s (s.chan c).prec i (specStart s c i)) := by
  rw [coarseUnit, precIndex_of_inRange hp, ok_bind]
  exact unitLines_overrunsAs (precOf_le hp) h

/-- Units that end at a position below the limit, or read no bit, fit. -/
theorem fits_units (h : specStart s c k = cursor s ∨ specStart s c k ≤ s.limitBits) :
    fits s ((List.range k).flatMap (unitFields s c)) (specStart s c 0) := by
  have hstart := start_eq (specStart_succ s c) k
  rw [fits, ← hstart]
  rw [specStart_zero] at hstart
  omega

/-- Readable units with valid codes. -/
theorem coarseUnits_ok (hk : k ≤ 34) (h : specDecodes s c k)
    (hfit : specStart s c k = cursor s ∨ specStart s c k ≤ s.limitBits) :
    ∀ i, i < k → coarseUnit s (s.chan c).prec i (specStart s c i) = .ok (unitValues s c i, specStart s c (i + 1)) ∧
      (unitValues s c i).length ≤ s.rom.nsps i := by
  intro i hi
  obtain ⟨hp, hval⟩ := h i hi
  exact ⟨coarseUnit_ok (hi.trans_le hk) hp hval (fits_unit (specStart_succ s c) (fits_units hfit) hi),
    by rw [unitValues, coarseValues, List.length_map, List.length_range]⟩

theorem movesCursor_specDecode (c : Chan) : movesCursor (.specDecode c) := fun _ _ _ => rfl

theorem complete_setChan_setBrPos (s : State) (c : Chan) (x : Channel) (p : Nat) :
    ((s.setChan c x).setBrPos p).complete = finished { withChan s c x with brPos := BitVec.ofNat 32 p } := by
  cases c <;> rfl

theorem chan_complete_setChan_setBrPos (s : State) (c : Chan) (x : Channel) (p : Nat) :
    ((s.setChan c x).setBrPos p).complete.chan c = x := by cases c <;> rfl

/-- A unit that fails after readable ones ends the command in its error. -/
theorem specDecodeRule_error (hn : s.nqu ≤ 34) (hk : k < s.nqu) (h : specDecodes s c k)
    (hfit : specStart s c k = cursor s ∨ specStart s c k ≤ s.limitBits) {e : Raise}
    (he : coarseUnit s (s.chan c).prec k (specStart s c k) = .error e) : specDecodeRule c s = .error e := by
  have hloop : unitLoop s.rom (coarseUnit s (s.chan c).prec) (List.range s.nqu) Lines.zero (specStart s c 0) = .error e :=
    unitLoop_range_error_at (c := s.cfg) (by omega) hk (coarseUnits_ok (by omega) h hfit) he
  rw [specDecodeRule_eq hn, ← specStart_zero s c, hloop, error_bind]

theorem specDecodeRule_overrunsAs (hn : s.nqu ≤ 34) (hk : k < s.nqu) (h : specDecodes s c k) (hp : precInRange s c k)
    (hval : ∀ j, j < s.rom.nsps k → jointEnd s c k j ≤ s.limitBits → specValue s c k j ≠ none) :
    OverrunsAs s ((List.range (k + 1)).flatMap (unitFields s c)) (cursor s) (specDecodeRule c s) := by
  obtain ⟨rest, hrest⟩ := range_eq_append (Nat.succ_le_of_lt hk)
  rw [specDecodeRule_eq hn, hrest, unitLoop_append]
  refine OverrunsAs.bind (OverrunsAs.bind (unitLoop_overrunsAs s.rom (specStart_succ s c) (fun i hi hfit => ?_)
    (fun i hi => ?_) Lines.zero) _) _
  · obtain ⟨hpi, hvi⟩ := h i hi
    exact ⟨_, coarseUnit_ok (by omega) hpi hvi hfit⟩
  · obtain rfl | hlt := Nat.eq_or_lt_of_le hi
    · exact coarseUnit_overrunsAs hp hval
    · obtain ⟨hpi, hvi⟩ := h i hlt
      exact coarseUnit_overrunsAs hpi fun j hj _ => hvi j hj

/-- What the stored lines are, where the units hold the values of the spectrum. -/
theorem line_of_unitsHold {q : Lines} (hk : i < k) (hhold : unitsHold s.rom k (unitValues s c) q) (hj : j < s.rom.nsps i)
    (hp : precInRange s c i) (hval : specValue s c i j ≠ none) :
    some (Lines.int q (s.rom.isp i + j)) = specValue s c i j := by
  obtain ⟨v, hv⟩ := Option.ne_none_iff_exists'.mp hval
  obtain ⟨hlow, hhigh⟩ := coarseValue_bounds (precOf_le hp) hv
  have hget : (unitValues s c i).getD j 0 = v := by
    rw [specValue] at hv
    simp [unitValues, coarseValues, List.getD_eq_getElem?_getD, hj, hv]
  rw [Lines.int, hhold.1 i hk j hj, hget, toInt_ofInt hlow hhigh, hv]

/-- A readable spectrum: the lines it stores and the cursor after it. -/
theorem specDecodeRule_ok (hn : s.nqu ≤ 34) (hdec : specDecodes s c s.nqu)
    (hfit : specStart s c s.nqu = cursor s ∨ specStart s c s.nqu ≤ s.limitBits) :
    ∃ q, specDecodeRule c s = .ok ((s.setChan c { s.chan c with qspec := q }).setBrPos (specStart s c s.nqu)) ∧
      unitsHold s.rom s.nqu (unitValues s c) q := by
  obtain ⟨q, hq, hhold⟩ := unitLoop_range_ok (c := s.cfg) hn (coarseUnits_ok hn hdec hfit)
  refine ⟨q, ?_, hhold⟩
  rw [specDecodeRule_eq hn]
  exact congrArg (· >>= _) hq

/-- Settles O37: the units one after the other, or the first that fails. -/
theorem specDecodeReadsEveryLine : Obligations.SpecDecodeReadsEveryLine := by
  intro s c hs
  refine ⟨fun hn => ?nqu, fun total hn hdec htotal hfit => ?ok, fun k hn hk hdec =>
    ⟨fun hfit hp => ?index, fun j hj hbefore hnone hend => ?joint, fun hp hpos hlim hval => ?overrun⟩⟩
  case nqu =>
    obtain ⟨t, ht, hrep, -⟩ := exec_reports (i := .specDecode c) hs rfl
      (show specDecodeRule c s = _ by rw [specDecodeRule, checkNqu_error hn, error_bind])
    exact ⟨t, ht, hrep⟩
  case ok =>
    have hend : specStart s c s.nqu = cursor s + total := by rw [htotal]; rfl
    have hfit : specStart s c s.nqu = cursor s ∨ specStart s c s.nqu ≤ s.limitBits := by omega
    obtain ⟨q, hrule, hhold⟩ := specDecodeRule_ok hn hdec hfit
    refine ⟨_, exec_ok (i := .specDecode c) hs rfl hrule, ?_⟩
    rw [chan_complete_setChan_setBrPos, complete_setChan_setBrPos, hend]
    exact ⟨rfl, fun i j hi hj => line_of_unitsHold hi hhold hj (hdec i hi).1 ((hdec i hi).2 j hj),
      fun n hn hnot => congrArg BitVec.toInt (hhold.2 n hn hnot)⟩
  case index =>
    obtain ⟨t, ht, hrep, -⟩ := exec_reports (i := .specDecode c) hs rfl
      (specDecodeRule_error hn hk hdec hfit (coarseUnit_indexRange hp _))
    exact ⟨t, ht, hrep⟩
  case joint =>
    have hk34 : k < 34 := hk.trans_le hn
    have hfit : specStart s c k ≤ s.limitBits := by unfold jointEnd at hend; omega
    obtain ⟨t, ht, hrep, -⟩ := exec_reports (i := .specDecode c) hs rfl
      (specDecodeRule_error hn hk hdec (.inr hfit) (coarseUnit_invalid hk34 hj hend hbefore hnone))
    exact ⟨t, ht, hrep⟩
  case overrun =>
    have hstart := start_eq (specStart_succ s c) (k + 1)
    rw [specStart_zero] at hstart
    have hnot : ¬fits s ((List.range (k + 1)).flatMap (unitFields s c)) (cursor s) := by unfold fits; omega
    exact exec_overruns hs rfl (movesCursor_specDecode c) (specDecodeRule_overrunsAs hn hk hdec hp hval) hnot

end Sys2Proof.Proofs.Spectrum
end

section
/-! `SPEC_FINE_DECODE`: the residuals of the units with a positive fine precision (R195). -/

namespace Sys2Proof.Proofs.FineSpectrum

open Sys2Proof.Machine Sys2Proof.Claims Sys2Proof.Proofs.Commands Sys2Proof.Proofs.FieldReads
  Sys2Proof.Proofs.Precision Sys2Proof.Proofs.UnitLoop Sys2Proof.Proofs.Spectrum

variable {s t : State} {c : Chan} {i j k n : Nat}

/-! ### One unit -/

/-- Unit `i` of `SPEC_FINE_DECODE`. -/
def fineUnit (s : State) (precf : Units) (i pos : Nat) : Except Raise (List Int × Nat) :=
  if 0 < Units.int precf i then
    if 15 < Units.int precf i then .error (raiseAt .indexRange pos)
    else s.readManySigned (wlRom (Units.int precf i).toNat) (s.rom.nsps i) pos
  else .ok ([], pos)

theorem fineUnits_eq (s : State) (precf : Units) (is : List Nat) (q : Lines) (pos : Nat) :
    s.fineUnits precf is q pos = unitLoop s.rom (fineUnit s precf) is q pos := by
  induction is generalizing q pos with
  | nil => rfl
  | cons i is ih =>
    unfold State.fineUnits unitLoop fineUnit
    dsimp only
    split
    · split
      · rfl
      · exact congrArg _ (funext fun r => ih _ _)
    · exact ih q pos

theorem specFineDecodeRule_eq (h : s.nqu ≤ 34) : specFineDecodeRule c s =
    unitLoop s.rom (fineUnit s (s.chan c).precf) (List.range s.nqu) Lines.zero (cursor s) >>= fun r =>
      .ok ((s.setChan c { s.chan c with qspecf := r.1 }).setBrPos r.2) := by
  rw [specFineDecodeRule, checkNqu_ok h, ok_bind, fineUnits_eq]
  rfl

/-- Where unit `i` starts, and its fields, in the fine spectrum at the cursor. -/
def fineStart (s : State) (c : Chan) (i : Nat) : Nat := cursor s + bitsBefore (fineBits s c) i

def fineFields (s : State) (c : Chan) (i : Nat) : List Nat := List.replicate (s.rom.nsps i) (sampleWidth (fineOf s c i))

/-- The values that unit `i` reads: none where the fine precision is not positive. -/
def residuals (s : State) (c : Chan) (i : Nat) : List Int :=
  if 0 < Units.int (s.chan c).precf i then (List.range (s.rom.nsps i)).map (fineValue s c i) else []

theorem sum_fineFields (s : State) (c : Chan) (i : Nat) : (fineFields s c i).sum = fineBits s c i := by
  rw [fineFields, List.sum_replicate, smul_eq_mul, fineBits]

theorem fineStart_succ (s : State) (c : Chan) (i : Nat) : fineStart s c (i + 1) = fineStart s c i + (fineFields s c i).sum := by
  rw [sum_fineFields, fineStart, fineStart, bitsBefore_succ, Nat.add_assoc]

theorem sampleWidth_le {p : Nat} (h : p ≤ 15) : sampleWidth p ≤ 16 := by
  unfold sampleWidth
  split <;> omega

theorem fineUnit_ok (h : Units.int (s.chan c).precf i ≤ 15) (hfit : fits s (fineFields s c i) (fineStart s c i)) :
    fineUnit s (s.chan c).precf i (fineStart s c i) = .ok (residuals s c i, fineStart s c (i + 1)) := by
  rw [fineStart_succ, sum_fineFields, fineUnit, residuals]
  by_cases hpos : 0 < Units.int (s.chan c).precf i
  · have hf : 0 < fineOf s c i := by unfold fineOf; omega
    have hw : sampleWidth (fineOf s c i) ≤ 32 := (sampleWidth_le (by unfold fineOf; omega)).trans (by decide)
    rw [if_pos hpos, if_pos hpos, if_neg (by omega)]
    refine (readManySigned_of_fits hw hfit).trans ?_
    rw [fineBits, Nat.mul_comm (s.rom.nsps i)]
    refine congrArg (fun l => Except.ok (l, _)) (List.map_congr_left fun j _ => ?_)
    simp only [fineValue, if_pos hf, fineStart, Nat.mul_comm]
  · have hf : fineOf s c i = 0 := by unfold fineOf; omega
    have hbits : fineBits s c i = 0 := by rw [fineBits, hf]; rfl
    rw [if_neg hpos, if_neg hpos, hbits, Nat.add_zero]

theorem fineUnit_indexRange (h : 15 < Units.int (s.chan c).precf i) (pos : Nat) :
    fineUnit s (s.chan c).precf i pos = .error (raiseAt .indexRange pos) := by
  rw [fineUnit, if_pos (by omega), if_pos h]

theorem fineUnit_overrunsAs (h : Units.int (s.chan c).precf i ≤ 15) (pos : Nat) :
    OverrunsAs s (fineFields s c i) pos (fineUnit s (s.chan c).precf i pos) := by
  rw [fineUnit]
  by_cases hpos : 0 < Units.int (s.chan c).precf i
  · have hle : fineOf s c i ≤ 15 := by unfold fineOf; omega
    rw [if_pos hpos, if_neg (by omega)]
    exact readManySigned_overrunsAs (Errors.wlRom_le hle) _ _
  · have hf : fineOf s c i = 0 := by unfold fineOf; omega
    have hsum : (fineFields s c i).sum = 0 := by rw [sum_fineFields, fineBits, hf]; rfl
    exact fun hnot => absurd (.inl hsum) hnot

theorem length_residuals (s : State) (c : Chan) (i : Nat) : (residuals s c i).length ≤ s.rom.nsps i := by
  unfold residuals
  split <;> simp

/-- The value of a line, 0 for those that no residual is read for. -/
theorem residuals_getD (h : j < s.rom.nsps i) : (residuals s c i).getD j 0 = fineValue s c i j := by
  unfold residuals
  by_cases hpos : 0 < Units.int (s.chan c).precf i
  · simp [hpos, List.getD_eq_getElem?_getD, h]
  · have hf : ¬0 < fineOf s c i := by unfold fineOf; omega
    rw [if_neg hpos, fineValue]
    simp only [if_neg hf]
    rfl

theorem fineValue_bounds (h : Units.int (s.chan c).precf i ≤ 15) (j : Nat) :
    -2 ^ 31 ≤ fineValue s c i j ∧ fineValue s c i j < 2 ^ 31 := by
  unfold fineValue
  dsimp only
  split
  · exact signed_bounds (sampleWidth_le (by unfold fineOf; omega)) (field_lt s _ _)
  · omega

/-! ### The command -/

theorem fits_fineUnits (h : fineStart s c k = cursor s ∨ fineStart s c k ≤ s.limitBits) :
    fits s ((List.range k).flatMap (fineFields s c)) (fineStart s c 0) := by
  have hstart := start_eq (fineStart_succ s c) k
  have hzero : fineStart s c 0 = cursor s := rfl
  rw [fits, ← hstart]
  omega

theorem fineUnits_ok (h : ∀ i, i < k → Units.int (s.chan c).precf i ≤ 15)
    (hfit : fineStart s c k = cursor s ∨ fineStart s c k ≤ s.limitBits) :
    ∀ i, i < k → fineUnit s (s.chan c).precf i (fineStart s c i) = .ok (residuals s c i, fineStart s c (i + 1)) ∧
      (residuals s c i).length ≤ s.rom.nsps i :=
  fun i hi => ⟨fineUnit_ok (h i hi) (fits_unit (fineStart_succ s c) (fits_fineUnits hfit) hi), length_residuals s c i⟩

theorem movesCursor_specFineDecode (c : Chan) : movesCursor (.specFineDecode c) := fun _ _ _ => rfl

theorem specFineDecodeRule_error (hn : s.nqu ≤ 34) (hk : k < s.nqu)
    (h : ∀ i, i < k → Units.int (s.chan c).precf i ≤ 15)
    (hfit : fineStart s c k = cursor s ∨ fineStart s c k ≤ s.limitBits) {e : Raise}
    (he : fineUnit s (s.chan c).precf k (fineStart s c k) = .error e) : specFineDecodeRule c s = .error e := by
  have hloop : unitLoop s.rom (fineUnit s (s.chan c).precf) (List.range s.nqu) Lines.zero (fineStart s c 0) = .error e :=
    unitLoop_range_error_at (c := s.cfg) (by omega) hk (fineUnits_ok h hfit) he
  rw [specFineDecodeRule_eq hn]
  exact congrArg (· >>= _) hloop

theorem specFineDecodeRule_overrunsAs (hn : s.nqu ≤ 34) (hk : k < s.nqu)
    (h : ∀ i, i ≤ k → Units.int (s.chan c).precf i ≤ 15) :
    OverrunsAs s ((List.range (k + 1)).flatMap (fineFields s c)) (cursor s) (specFineDecodeRule c s) := by
  obtain ⟨rest, hrest⟩ := range_eq_append (Nat.succ_le_of_lt hk)
  rw [specFineDecodeRule_eq hn, hrest, unitLoop_append]
  exact OverrunsAs.bind (OverrunsAs.bind (unitLoop_overrunsAs s.rom (fineStart_succ s c)
    (fun i hi hfit => ⟨_, fineUnit_ok (h i hi.le) hfit⟩) (fun i hi => fineUnit_overrunsAs (h i hi) _) Lines.zero) _) _

/-- A readable fine spectrum: the lines it stores and the cursor after it. -/
theorem specFineDecodeRule_ok (hn : s.nqu ≤ 34) (hprec : ∀ i, i < s.nqu → Units.int (s.chan c).precf i ≤ 15)
    (hfit : fineStart s c s.nqu = cursor s ∨ fineStart s c s.nqu ≤ s.limitBits) :
    ∃ q, specFineDecodeRule c s = .ok ((s.setChan c { s.chan c with qspecf := q }).setBrPos (fineStart s c s.nqu)) ∧
      unitsHold s.rom s.nqu (residuals s c) q := by
  obtain ⟨q, hq, hhold⟩ := unitLoop_range_ok (c := s.cfg) hn (fineUnits_ok hprec hfit)
  refine ⟨q, ?_, hhold⟩
  rw [specFineDecodeRule_eq hn]
  exact congrArg (· >>= _) hq

/-- Settles O38: the units one after the other, or the first that fails. -/
theorem specFineDecodeReadsTheResiduals : Obligations.SpecFineDecodeReadsTheResiduals := by
  intro s c hs
  refine ⟨fun hn => ?nqu, fun total hn hprec htotal hfit => ?ok, fun k start stop hn hk hprec hstart hstop =>
    ⟨fun hfit hp => ?index, fun hp hpos hlim => ?overrun⟩⟩
  case nqu =>
    obtain ⟨t, ht, hrep, -⟩ := exec_reports (i := .specFineDecode c) hs rfl
      (show specFineDecodeRule c s = _ by rw [specFineDecodeRule, checkNqu_error hn, error_bind])
    exact ⟨t, ht, hrep⟩
  case ok =>
    have hend : fineStart s c s.nqu = cursor s + total := by rw [htotal]; rfl
    have hfit : fineStart s c s.nqu = cursor s ∨ fineStart s c s.nqu ≤ s.limitBits := by omega
    obtain ⟨q, hrule, hhold⟩ := specFineDecodeRule_ok hn hprec hfit
    refine ⟨_, exec_ok (i := .specFineDecode c) hs rfl hrule, ?_⟩
    rw [chan_complete_setChan_setBrPos, complete_setChan_setBrPos, hend]
    refine ⟨rfl, fun i j hi hj => ?_, fun n hn hnot => congrArg BitVec.toInt (hhold.2 n hn hnot)⟩
    obtain ⟨hlow, hhigh⟩ := fineValue_bounds (hprec i hi) j
    exact (congrArg BitVec.toInt ((hhold.1 i hi j hj).trans (congrArg Word.ofInt (residuals_getD hj)))).trans
      (toInt_ofInt hlow hhigh)
  case index =>
    subst hstart
    obtain ⟨t, ht, hrep, -⟩ := exec_reports (i := .specFineDecode c) hs rfl
      (specFineDecodeRule_error hn hk hprec hfit (fineUnit_indexRange hp _))
    exact ⟨t, ht, hrep⟩
  case overrun =>
    have hsum := start_eq (fineStart_succ s c) (k + 1)
    have hzero : fineStart s c 0 = cursor s := rfl
    have hlast : fineStart s c (k + 1) = stop := hstop.symm
    have hnot : ¬fits s ((List.range (k + 1)).flatMap (fineFields s c)) (cursor s) := by unfold fits; omega
    refine exec_overruns hs rfl (movesCursor_specFineDecode c) (specFineDecodeRule_overrunsAs hn hk fun i hi => ?_) hnot
    obtain rfl | hlt := Nat.eq_or_lt_of_le hi
    · exact hp
    · exact hprec i hlt

end Sys2Proof.Proofs.FineSpectrum
end

section
/-! `DEQUANT` and `SCALE` (R210, R212): a loop over the units in which each unit changes its own lines. -/

namespace Sys2Proof.Proofs.Dequantizer

open Sys2Proof.Machine Sys2Proof.Claims Sys2Proof.Proofs.Commands Sys2Proof.Proofs.UnitLoop
open Sys2Proof.Proofs.Precision Sys2Proof.Proofs.Spectrum

variable {s : State} {c : Chan} {i k n : Nat} {step : Nat → Lines → Except Raise Lines} {line : Nat → Nat → Word → Word}

/-! ### The loop -/

/-- From `v` to `v'`, unit `i` maps each of its lines by `f` and leaves every other line. -/
def mapsUnit (c : Config) (i : Nat) (f : Nat → Word → Word) (v v' : Lines) : Prop :=
  (∀ n, inUnit c i n → Lines.at v' n = f n (Lines.at v n)) ∧ ∀ n, ¬inUnit c i n → Lines.at v' n = Lines.at v n

theorem mapsUnit_fill (c : ValidConfig) (hi : i < 34) (f : Nat → Word → Word) (v : Lines) :
    mapsUnit c.rom i f v (Lines.fill v (c.rom.isp i) (fun j => f (c.rom.isp i + j) (Lines.at v (c.rom.isp i + j)))
      (c.rom.nsps i)) := by
  have hinside := (unitBounds c hi).inside
  refine ⟨fun n hn => ?_, fun n hn => ?_⟩
  · obtain ⟨hlow, hhigh⟩ := hn
    rw [lines_at_fill, if_pos (by omega), Nat.add_sub_cancel' hlow]
  · unfold inUnit at hn
    rw [lines_at_fill, if_neg (by omega)]

theorem mapsUnit_id (c : Config) (i : Nat) (v : Lines) : mapsUnit c i (fun _ w => w) v v := ⟨fun _ _ => rfl, fun _ _ => rfl⟩

/-- A loop whose units all succeed maps the lines of each of them. -/
theorem foldlM_units_ok {c : ValidConfig} (hk : k ≤ 34)
    (h : ∀ i, i < k → ∀ v, ∃ v', step i v = .ok v' ∧ mapsUnit c.rom i (line i) v v') (v : Lines) :
    ∃ v', (List.range k).foldlM (fun v i => step i v) v = .ok v' ∧
      (∀ i n, i < k → inUnit c.rom i n → Lines.at v' n = line i n (Lines.at v n)) ∧
      ∀ n, (∀ i, i < k → ¬inUnit c.rom i n) → Lines.at v' n = Lines.at v n := by
  induction k with
  | zero => exact ⟨v, rfl, fun _ _ hi => absurd hi (Nat.not_lt_zero _), fun _ _ => rfl⟩
  | succ k ih =>
    obtain ⟨u, hu, hin, hout⟩ := ih (by omega) fun i hi => h i (hi.trans (Nat.lt_succ_self k))
    obtain ⟨v', hv', hmap, hkeep⟩ := h k (Nat.lt_succ_self k) u
    refine ⟨v', ?_, fun i n hi hn => ?_, fun n hn => ?_⟩
    · rw [List.range_succ, List.foldlM_append, hu, ok_bind, List.foldlM_cons, hv', ok_bind]
      rfl
    · obtain rfl | hlt := Nat.eq_or_lt_of_le (Nat.lt_succ_iff.mp hi)
      · rw [hmap n hn, hout n fun i' hi' hn' => hi'.ne (unit_unique c (by omega) (by omega) hn' hn)]
      · rw [hkeep n fun hn' => hlt.ne (unit_unique c (by omega) (by omega) hn hn'), hin i n hlt hn]
    · rw [hkeep n (hn k (Nat.lt_succ_self k)), hout n fun i hi => hn i (hi.trans (Nat.lt_succ_self k))]

/-- A loop with a unit that fails, where every unit that fails reports the same error. -/
theorem foldlM_units_error {is : List Nat} {e : Raise} (h : ∀ i ∈ is, ∀ v, step i v = .error e ∨ ∃ v', step i v = .ok v')
    (hbad : ∃ i ∈ is, ∀ v, step i v = .error e) (v : Lines) : is.foldlM (fun v i => step i v) v = .error e := by
  induction is generalizing v with
  | nil => exact absurd hbad (by simp)
  | cons i is ih =>
    rw [List.foldlM_cons]
    obtain herr | ⟨v', hok⟩ := h i List.mem_cons_self v
    · rw [herr, error_bind]
    · obtain ⟨j, hj, hfail⟩ := hbad
      obtain rfl | hmem := List.mem_cons.mp hj
      · rw [hfail v, error_bind]
      · rw [hok, ok_bind]
        exact ih (fun i' hi' => h i' (List.mem_cons_of_mem _ hi')) ⟨j, hmem, hfail⟩ v'

/-! ### `DEQUANT` (R210) -/

/-- Unit `i` of `DEQUANT`. -/
def dequantUnit (c : Config) (x : Channel) (pos i : Nat) (v : Lines) : Except Raise Lines :=
  precIndex (Units.int x.prec i) pos >>= fun p => .ok (Lines.fill v (c.isp i) (fun j =>
    dequantLine c p (Lines.int x.qspec (c.isp i + j)) (Lines.int x.qspecf (c.isp i + j))) (c.nsps i))

theorem dequantUnits_eq (c : Config) (x : Channel) (pos : Nat) (is : List Nat) (v : Lines) :
    dequantUnits c x pos is v = is.foldlM (fun v i => dequantUnit c x pos i v) v := by
  induction is generalizing v with
  | nil => rfl
  | cons i is ih =>
    rw [dequantUnits, List.foldlM_cons, dequantUnit, bind_assoc]
    exact congrArg _ (funext fun p => ih _)

theorem dequantRule_eq (h : s.nqu ≤ 34) : dequantRule c s =
    (List.range s.nqu).foldlM (fun v i => dequantUnit s.rom (s.chan c) (cursor s) i v) Lines.zero >>= fun v =>
      .ok (s.setChan c { s.chan c with spec := v }) := by
  rw [dequantRule, checkNqu_ok h, ok_bind, dequantUnits_eq]
  rfl

/-- The dequantized line `n` of unit `i`. -/
def dequantizedLine (s : State) (c : Chan) (i n : Nat) : Word :=
  dequantLine s.rom (precOf s c i) (Lines.int (s.chan c).qspec n) (Lines.int (s.chan c).qspecf n)

theorem dequantUnit_ok (hi : i < 34) (h : precInRange s c i) (pos : Nat) (v : Lines) :
    ∃ v', dequantUnit s.rom (s.chan c) pos i v = .ok v' ∧
      mapsUnit s.rom i (fun n _ => dequantizedLine s c i n) v v' := by
  rw [dequantUnit, precIndex_of_inRange h, ok_bind]
  exact ⟨_, rfl, mapsUnit_fill s.cfg hi _ v⟩

theorem dequantUnit_error (h : ¬precInRange s c i) (pos : Nat) (v : Lines) :
    dequantUnit s.rom (s.chan c) pos i v = .error (raiseAt .indexRange pos) := by
  rw [dequantUnit, precIndex_of_not_inRange h, error_bind]

/-- A readable `DEQUANT`: the lines it stores. -/
theorem dequantRule_ok (hn : s.nqu ≤ 34) (h : ∀ i, i < s.nqu → precInRange s c i) :
    ∃ v, dequantRule c s = .ok (s.setChan c { s.chan c with spec := v }) ∧
      (∀ i n, i < s.nqu → inUnit s.rom i n → Lines.at v n = dequantizedLine s c i n) ∧
      ∀ n, (∀ i, i < s.nqu → ¬inUnit s.rom i n) → Lines.at v n = 0 := by
  obtain ⟨v, hv, hin, hout⟩ := foldlM_units_ok (c := s.cfg) hn
    (fun i hi v => dequantUnit_ok (i := i) (by omega) (h i hi) (cursor s) v) Lines.zero
  refine ⟨v, ?_, hin, fun n hnot => (hout n hnot).trans (lines_at_zero n)⟩
  rw [dequantRule_eq hn]
  exact congrArg (· >>= _) hv

theorem dequantRule_error (h : 34 < s.nqu ∨ ∃ i, i < s.nqu ∧ ¬precInRange s c i) :
    dequantRule c s = .error (raiseAt .indexRange (cursor s)) := by
  by_cases hn : 34 < s.nqu
  · rw [dequantRule, checkNqu_error hn, error_bind]
    rfl
  · obtain ⟨i, hi, hbad⟩ := h.resolve_left hn
    rw [dequantRule_eq (Nat.le_of_not_lt hn), foldlM_units_error (fun j hj v => ?_)
      ⟨i, List.mem_range.mpr hi, dequantUnit_error hbad (cursor s)⟩, error_bind]
    have hj : j < s.nqu := List.mem_range.mp hj
    by_cases hp : precInRange s c j
    · obtain ⟨v', hv', -⟩ := dequantUnit_ok (i := j) (by omega) hp (cursor s) v
      exact .inr ⟨v', hv'⟩
    · exact .inl (dequantUnit_error hp (cursor s) v)

/-- Settles O39: the units one after the other, on lines of +0.0. -/
theorem dequantMultipliesByTheSteps : Obligations.DequantMultipliesByTheSteps := by
  intro s c hs
  refine ⟨fun hn h => ?_, fun h => ?_⟩
  · obtain ⟨v, hv, hin, hout⟩ := dequantRule_ok hn h
    refine ⟨_, exec_ok (i := .dequant c) hs rfl hv, ?_⟩
    rw [chan_complete_setChan, finished_setChan]
    exact ⟨rfl, hin, fun n _ hnot => hout n hnot⟩
  · obtain ⟨t, ht, hrep, -⟩ := exec_reports (i := .dequant c) hs rfl (dequantRule_error h)
    exact ⟨t, ht, hrep⟩

/-! ### `SCALE` (R212) -/

/-- Unit `i` of `SCALE`. -/
def scaleUnit (c : Config) (sf : Units) (pos i : Nat) (v : Lines) : Except Raise Lines :=
  if 0 < Units.int sf i then
    if 31 < Units.int sf i then .error (raiseAt .indexRange pos)
    else .ok (Lines.fill v (c.isp i) (fun j => fmul (Lines.at v (c.isp i + j)) (scaleRom (Units.int sf i).toNat)) (c.nsps i))
  else .ok v

theorem scaleUnits_eq (c : Config) (sf : Units) (pos : Nat) (is : List Nat) (v : Lines) :
    scaleUnits c sf pos is v = is.foldlM (fun v i => scaleUnit c sf pos i v) v := by
  induction is generalizing v with
  | nil => rfl
  | cons i is ih =>
    rw [scaleUnits, List.foldlM_cons, scaleUnit]
    split_ifs
    · rfl
    · exact ih _
    · exact ih _

theorem scaleRule_eq (h : s.nqu ≤ 34) : scaleRule c s =
    (List.range s.nqu).foldlM (fun v i => scaleUnit s.rom (s.chan c).sf (cursor s) i v) (s.chan c).spec >>= fun v =>
      .ok (s.setChan c { s.chan c with spec := v }) := by
  rw [scaleRule, checkNqu_ok h, ok_bind, scaleUnits_eq]
  rfl

/-- What `SCALE` makes of a line of a unit with factor `f`. -/
def scaledLine (f : Int) (w : Word) : Word := if 0 < f then fmul w (scaleRom f.toNat) else w

theorem scaleUnit_ok {sf : Units} (hi : i < 34) (h : Units.int sf i ≤ 31) (pos : Nat) (v : Lines) :
    ∃ v', scaleUnit s.rom sf pos i v = .ok v' ∧ mapsUnit s.rom i (fun _ => scaledLine (Units.int sf i)) v v' := by
  unfold scaleUnit scaledLine
  split_ifs with hpos hbig
  · omega
  · exact ⟨_, rfl, mapsUnit_fill s.cfg hi (fun _ w => fmul w (scaleRom (Units.int sf i).toNat)) v⟩
  · exact ⟨v, rfl, mapsUnit_id _ i v⟩

theorem scaleUnit_error {cfg : Config} {sf : Units} (h : 31 < Units.int sf i) (pos : Nat) (v : Lines) :
    scaleUnit cfg sf pos i v = .error (raiseAt .indexRange pos) := by
  rw [scaleUnit, if_pos (by omega), if_pos h]

/-- A `SCALE` with factors of its table: the lines it stores. -/
theorem scaleRule_ok (hn : s.nqu ≤ 34) (h : ∀ i, i < s.nqu → Units.int (s.chan c).sf i ≤ 31) :
    ∃ v, scaleRule c s = .ok (s.setChan c { s.chan c with spec := v }) ∧
      (∀ i n, i < s.nqu → inUnit s.rom i n →
        Lines.at v n = scaledLine (Units.int (s.chan c).sf i) (Lines.at (s.chan c).spec n)) ∧
      ∀ n, (∀ i, i < s.nqu → ¬inUnit s.rom i n) → Lines.at v n = Lines.at (s.chan c).spec n := by
  obtain ⟨v, hv, hin, hout⟩ := foldlM_units_ok (c := s.cfg) hn
    (fun i hi v => scaleUnit_ok (s := s) (i := i) (by omega) (h i hi) (cursor s) v) (s.chan c).spec
  refine ⟨v, ?_, hin, hout⟩
  rw [scaleRule_eq hn]
  exact congrArg (· >>= _) hv

theorem scaleRule_error (h : 34 < s.nqu ∨ ∃ i, i < s.nqu ∧ 31 < Units.int (s.chan c).sf i) :
    scaleRule c s = .error (raiseAt .indexRange (cursor s)) := by
  by_cases hn : 34 < s.nqu
  · rw [scaleRule, checkNqu_error hn, error_bind]
    rfl
  · obtain ⟨i, hi, hbad⟩ := h.resolve_left hn
    rw [scaleRule_eq (Nat.le_of_not_lt hn), foldlM_units_error (fun j hj v => ?_)
      ⟨i, List.mem_range.mpr hi, scaleUnit_error hbad (cursor s)⟩, error_bind]
    have hj : j < s.nqu := List.mem_range.mp hj
    by_cases hp : Units.int (s.chan c).sf j ≤ 31
    · obtain ⟨v', hv', -⟩ := scaleUnit_ok (s := s) (i := j) (by omega) hp (cursor s) v
      exact .inr ⟨v', hv'⟩
    · exact .inl (scaleUnit_error (not_le.mp hp) (cursor s) v)

/-- The 31 entries of the table are the powers of two 2^(f − 24). -/
theorem scaleRom_value : ∀ f, f < 32 → 0 < f → fpExp (scaleRom f) ≠ 255 ∧ fpInt (scaleRom f) = 2 ^ (149 - 24 + f) := by
  decide

/-- Settles O40: the units one after the other, on the lines as they are. -/
theorem scaleMultipliesByPowersOfTwo : Obligations.ScaleMultipliesByPowersOfTwo := by
  intro s c hs
  refine ⟨fun hn h => ?_, fun h => ?_⟩
  · obtain ⟨v, hv, hin, hout⟩ := scaleRule_ok hn h
    refine ⟨_, exec_ok (i := .scale c) hs rfl hv, ?_⟩
    rw [chan_complete_setChan, finished_setChan]
    refine ⟨rfl, fun i n hi hn hpos => ?_, fun n _ hlow => ?_⟩
    · have hle := h i hi
      obtain ⟨hfin, hval⟩ := scaleRom_value (Units.int (s.chan c).sf i).toNat (by omega) (by omega)
      exact ⟨_, hfin, hval, (hin i n hi hn).trans (if_pos hpos)⟩
    · by_cases hex : ∃ i, i < s.nqu ∧ inUnit s.rom i n
      · obtain ⟨i, hi, hin'⟩ := hex
        exact (hin i n hi hin').trans (if_neg (not_lt.mpr (hlow i hi hin')))
      · exact hout n fun i hi hin' => hex ⟨i, hi, hin'⟩
  · obtain ⟨t, ht, hrep, -⟩ := exec_reports (i := .scale c) hs rfl (scaleRule_error h)
    exact ⟨t, ht, hrep⟩

end Sys2Proof.Proofs.Dequantizer
end

section
/-! Rounding of binary32 (R10): `fpRound` delivers the nearest representable number. A number ±m·2^−k in units 2^−149 is
cut at bit `sh`; what is kept is the nearest multiple of 2^sh, and no representable number between two such multiples is
closer. -/

namespace Sys2Proof.Proofs.Rounding

open Sys2Proof.Machine Sys2Proof.Claims

variable {m k sh e q : Nat} {w : Word} {neg : Bool}

/-! ### The nearest multiple -/

/-- Among the multiples of `D`, the one rounding picks is nearest to `q·D + r`, and even where another is as near. -/
theorem nearest_multiple {q D r z R : Int} (hr : 0 ≤ r) (hrD : r < D)
    (hR : R = if D < 2 * r ∨ (2 * r = D ∧ q % 2 = 1) then q + 1 else q) :
    |R * D - (q * D + r)| ≤ |z * D - (q * D + r)| ∧
      (|R * D - (q * D + r)| = |z * D - (q * D + r)| → z ≠ R → R % 2 = 0) := by
  have hz : z * D - (q * D + r) = (z - q) * D - r := by ring
  have hRD : R * D - (q * D + r) = (R - q) * D - r := by ring
  rw [hz, hRD, Int.abs_eq_natAbs, Int.abs_eq_natAbs]
  have hcases : z - q ≤ -1 ∧ (z - q) * D ≤ -D ∨ z - q = 0 ∧ (z - q) * D = 0 ∨ z - q = 1 ∧ (z - q) * D = D ∨
      2 ≤ z - q ∧ 2 * D ≤ (z - q) * D := by
    obtain h | h | h | h : z - q ≤ -1 ∨ z - q = 0 ∨ z - q = 1 ∨ 2 ≤ z - q := by omega
    · exact .inl ⟨h, by nlinarith⟩
    · exact .inr (.inl ⟨h, by rw [h, zero_mul]⟩)
    · exact .inr (.inr (.inl ⟨h, by rw [h, one_mul]⟩))
    · exact .inr (.inr (.inr ⟨h, by nlinarith⟩))
  generalize (z - q) * D = t at hcases
  split_ifs at hR with hup
  · rw [show (R - q) * D = D by rw [hR]; ring]
    omega
  · rw [show (R - q) * D = 0 by rw [hR]; ring]
    omega

theorem roundShift_nearest (m sh : Nat) (z : Int) :
    |(roundShift m sh : Int) * 2 ^ sh - m| ≤ |z * 2 ^ sh - m| ∧
      (|(roundShift m sh : Int) * 2 ^ sh - m| = |z * 2 ^ sh - m| → z ≠ roundShift m sh → (roundShift m sh : Int) % 2 = 0) := by
  have hpos : 0 < 2 ^ sh := Nat.two_pow_pos sh
  have hm : (m : Int) = (m >>> sh : Nat) * (2 : Int) ^ sh + (m % 2 ^ sh : Nat) := by
    rw [Nat.shiftRight_eq_div_pow]
    exact_mod_cast (Nat.div_add_mod' m (2 ^ sh)).symm
  have hlt : ((m % 2 ^ sh : Nat) : Int) < 2 ^ sh := by exact_mod_cast Nat.mod_lt m hpos
  have hR : (roundShift m sh : Int) = if (2 : Int) ^ sh < 2 * (m % 2 ^ sh : Nat) ∨
      (2 * ((m % 2 ^ sh : Nat) : Int) = 2 ^ sh ∧ ((m >>> sh : Nat) : Int) % 2 = 1)
      then ((m >>> sh : Nat) : Int) + 1 else (m >>> sh : Nat) := by
    have hcast : ((2 ^ sh : Nat) : Int) = 2 ^ sh := by push_cast; rfl
    unfold roundShift
    dsimp only
    rw [← hcast]
    generalize m % 2 ^ sh = r
    generalize 2 ^ sh = D
    generalize m >>> sh = q
    split_ifs <;> omega
  have h := nearest_multiple (z := z) (Int.natCast_nonneg _) hlt hR
  rwa [← hm] at h

/-! ### The fields of a word -/

/-- The magnitude that the low 31 bits `b` of a word encode. -/
def magnitude (b : Nat) : Nat := if b >>> 23 = 0 then b % 2 ^ 23 else (2 ^ 23 + b % 2 ^ 23) <<< (b >>> 23 - 1)

/-- A significand of at most 24 bits, normal unless the exponent is 0, and its exponent. -/
theorem magnitude_add (hq : q ≤ 2 ^ 24) (he : e = 0 ∨ 2 ^ 23 ≤ q) : magnitude (e <<< 23 + q) = q * 2 ^ e := by
  have hshift : (e <<< 23 + q) >>> 23 = e + q / 2 ^ 23 := by
    rw [Nat.shiftLeft_eq, Nat.shiftRight_eq_div_pow, Nat.add_comm, Nat.add_mul_div_right _ _ (by decide), Nat.add_comm]
  have hmod : (e <<< 23 + q) % 2 ^ 23 = q % 2 ^ 23 := by rw [Nat.shiftLeft_eq, Nat.mul_add_mod_self_right]
  rw [magnitude, hshift, hmod, Nat.shiftLeft_eq]
  obtain h | h | h : q < 2 ^ 23 ∨ (2 ^ 23 ≤ q ∧ q < 2 ^ 24) ∨ q = 2 ^ 24 := by omega
  · obtain rfl : e = 0 := by omega
    rw [if_pos (by omega), Nat.mod_eq_of_lt h, pow_zero, Nat.mul_one]
  · have hdiv : q / 2 ^ 23 = 1 := by omega
    rw [hdiv, if_neg (by omega), show 2 ^ 23 + q % 2 ^ 23 = q by omega, Nat.add_sub_cancel]
  · subst h
    rw [if_neg (by omega), show e + 2 ^ 24 / 2 ^ 23 - 1 = e + 1 by omega, pow_succ]
    omega

theorem fpMag_eq_magnitude (hs : w.toNat % 2 ^ 31 = q) : fpMag w = magnitude q := by
  have hexp : fpExp w = q >>> 23 := by
    rw [fpExp, BitVec.extractLsb'_toNat, Nat.shiftRight_eq_div_pow, Nat.shiftRight_eq_div_pow]
    omega
  have hfrac : fpFrac w = q % 2 ^ 23 := by
    rw [fpFrac, BitVec.extractLsb'_toNat, Nat.shiftRight_zero]
    omega
  rw [fpMag, hexp, hfrac, magnitude]

/-- Every magnitude is a significand below 2^24 times a power of two. -/
theorem fpMag_shape (w : Word) : ∃ f e, f < 2 ^ 24 ∧ fpMag w = f * 2 ^ e := by
  have hfrac : fpFrac w < 2 ^ 23 := (w.extractLsb' 0 23).isLt
  unfold fpMag
  split_ifs
  · exact ⟨fpFrac w, 0, by omega, (Nat.mul_one _).symm⟩
  · exact ⟨2 ^ 23 + fpFrac w, fpExp w - 1, by omega, Nat.shiftLeft_eq _ _⟩

theorem natAbs_fpInt (w : Word) : (fpInt w).natAbs = fpMag w := by
  unfold fpInt
  split_ifs <;> omega

/-- A word put together from its sign and its other bits. -/
theorem toNat_signed (h : q < 2 ^ 31) :
    (fpSignBit neg ||| BitVec.ofNat 32 q).toNat = q + if neg then 2 ^ 31 else 0 := by
  have hq : (BitVec.ofNat 32 q).toNat = q := BitVec.toNat_ofNat q 32 ▸ Nat.mod_eq_of_lt (by omega)
  rw [BitVec.toNat_or, hq]
  cases neg
  · exact Nat.zero_or q
  · have hor := Nat.two_pow_add_eq_or_of_lt h 1
    rw [Nat.mul_one] at hor
    exact hor.symm.trans (Nat.add_comm _ _)

theorem fields_signed (h : q < 255 <<< 23) : finite (fpSignBit neg ||| BitVec.ofNat 32 q) ∧
    fpInt (fpSignBit neg ||| BitVec.ofNat 32 q) = (if neg then -(magnitude q : Int) else magnitude q) ∧
    ((fpSignBit neg ||| BitVec.ofNat 32 q).getLsbD 0 = false ↔ q % 2 = 0) := by
  have h' : q < 255 * 2 ^ 23 := h
  have hnat := toNat_signed (neg := neg) (q := q) (by omega)
  generalize fpSignBit neg ||| BitVec.ofNat 32 q = v at hnat
  have hmag : fpMag v = magnitude q := fpMag_eq_magnitude (by rw [hnat]; split_ifs <;> omega)
  have hsign : fpSign v = neg := by
    rw [fpSign, BitVec.getLsbD, Nat.testBit, hnat, Nat.shiftRight_eq_div_pow, Nat.one_and_eq_mod_two]
    cases neg
    · rw [if_neg (by decide), show (q + 0) / 2 ^ 31 = 0 by omega]
      rfl
    · rw [if_pos rfl, show (q + 2 ^ 31) / 2 ^ 31 = 1 by omega]
      rfl
  refine ⟨?_, ?_, ?_⟩
  · rw [finite, fpExp, BitVec.extractLsb'_toNat, Nat.shiftRight_eq_div_pow, hnat]
    split_ifs <;> omega
  · rw [fpInt, hmag, hsign]
  · rw [BitVec.getLsbD, hnat, Nat.testBit_zero, decide_eq_false_iff_not]
    split_ifs <;> omega

/-! ### What is cut -/

/-- Where `fpRound` cuts `m`. -/
def cut (m k : Nat) : Nat := max k (Nat.log2 m - 23)

/-- The low 31 bits of a rounded word, unless they are too large. -/
def roundedBits (m k : Nat) : Nat := (cut m k - k) <<< 23 + roundShift m (cut m k)

theorem fpRound_eq (neg : Bool) (m k : Nat) : fpRound neg m k =
    if 255 <<< 23 ≤ roundedBits m k then fpInf neg else fpSignBit neg ||| BitVec.ofNat 32 (roundedBits m k) := rfl

theorem le_cut (m k : Nat) : k ≤ cut m k := Nat.le_max_left _ _

theorem lt_two_pow_cut (m k : Nat) : m < 2 ^ 24 * 2 ^ cut m k := by
  rw [← pow_add]
  refine Nat.lt_log2_self.trans_le (Nat.pow_le_pow_right (by decide) ?_)
  have : Nat.log2 m - 23 ≤ cut m k := Nat.le_max_right _ _
  omega

theorem two_pow_cut_le (h : k < cut m k) : 2 ^ 23 * 2 ^ cut m k ≤ m := by
  have hcut : cut m k = Nat.log2 m - 23 := by unfold cut at h ⊢; omega
  have hm : m ≠ 0 := by rintro rfl; rw [hcut] at h; simp at h
  rw [← pow_add]
  exact (Nat.le_log2 hm).mp (by omega)

theorem roundShift_bounds (m sh : Nat) : m >>> sh ≤ roundShift m sh ∧ roundShift m sh ≤ m >>> sh + 1 := by
  unfold roundShift
  dsimp only
  split_ifs <;> omega

theorem roundShift_cut_le (m k : Nat) : roundShift m (cut m k) ≤ 2 ^ 24 := by
  have hlt : m >>> cut m k < 2 ^ 24 := by
    rw [Nat.shiftRight_eq_div_pow, Nat.div_lt_iff_lt_mul (Nat.two_pow_pos _)]
    exact lt_two_pow_cut m k
  have := (roundShift_bounds m (cut m k)).2
  omega

theorem le_roundShift_cut (h : k < cut m k) : 2 ^ 23 ≤ roundShift m (cut m k) := by
  refine le_trans ?_ (roundShift_bounds m (cut m k)).1
  rw [Nat.shiftRight_eq_div_pow, Nat.le_div_iff_mul_le (Nat.two_pow_pos _)]
  exact two_pow_cut_le h

theorem magnitude_roundedBits (m k : Nat) :
    magnitude (roundedBits m k) * 2 ^ k = roundShift m (cut m k) * 2 ^ cut m k := by
  have hle := le_cut m k
  have hcase : cut m k - k = 0 ∨ 2 ^ 23 ≤ roundShift m (cut m k) := by
    obtain h | h := Nat.eq_or_lt_of_le hle
    · exact .inl (by omega)
    · exact .inr (le_roundShift_cut h)
  rw [roundedBits, magnitude_add (roundShift_cut_le m k) hcase, Nat.mul_assoc, ← pow_add, Nat.sub_add_cancel hle]

theorem roundedBits_mod_two (m k : Nat) : roundedBits m k % 2 = roundShift m (cut m k) % 2 := by
  rw [roundedBits, Nat.shiftLeft_eq]
  omega

/-! ### The rounded word is the nearest -/

/-- Representable numbers between two multiples of the cut are too small to be nearer. -/
theorem cut_nearest {y : Int} {f : Nat} (hf : f < 2 ^ 24) (hy : y.natAbs = f * 2 ^ e) :
    |(roundShift m (cut m k) : Int) * 2 ^ cut m k - m| ≤ |y * 2 ^ k - m| ∧
      (|(roundShift m (cut m k) : Int) * 2 ^ cut m k - m| = |y * 2 ^ k - m| →
        y * 2 ^ k ≠ (roundShift m (cut m k) : Int) * 2 ^ cut m k → roundShift m (cut m k) % 2 = 0) := by
  have hle := le_cut m k
  by_cases hmul : cut m k - k ≤ e
  · obtain ⟨z, hz⟩ : ∃ z : Int, y = z * 2 ^ (cut m k - k) := by
      have hdvd : (2 ^ (cut m k - k) : Int) ∣ y := by
        rw [← Int.dvd_natAbs, hy]
        exact_mod_cast Dvd.dvd.mul_left (pow_dvd_pow 2 hmul) f
      exact hdvd.imp fun z hz => hz.trans (mul_comm _ _)
    have hyk : y * 2 ^ k = z * 2 ^ cut m k := by rw [hz, mul_assoc, ← pow_add, Nat.sub_add_cancel hle]
    obtain ⟨hnear, htie⟩ := roundShift_nearest m (cut m k) z
    rw [hyk]
    refine ⟨hnear, fun heq hne => ?_⟩
    have := htie heq fun h => hne (by rw [h])
    omega
  · have hsmall : y * 2 ^ k < 2 ^ 23 * 2 ^ cut m k := by
      have hpow : f * 2 ^ e * 2 ^ k < 2 ^ 24 * 2 ^ (cut m k - 1) := by
        rw [Nat.mul_assoc, ← pow_add]
        exact Nat.mul_lt_mul_of_lt_of_le hf (Nat.pow_le_pow_right (by decide) (by omega)) (by positivity)
      have hcut : 2 ^ 24 * 2 ^ (cut m k - 1) = 2 ^ 23 * 2 ^ cut m k := by
        rw [← pow_add, ← pow_add]
        congr 1
        omega
      rw [hcut, ← hy] at hpow
      have hcast : (y.natAbs : Int) * 2 ^ k < 2 ^ 23 * 2 ^ cut m k := by exact_mod_cast hpow
      have hpos : (0 : Int) < 2 ^ k := by positivity
      have : y ≤ y.natAbs := by omega
      nlinarith
    have hbig : (2 : Int) ^ 23 * 2 ^ cut m k ≤ m := by exact_mod_cast two_pow_cut_le (m := m) (k := k) (by omega)
    obtain ⟨hnear, -⟩ := roundShift_nearest m (cut m k) (2 ^ 23)
    generalize (roundShift m (cut m k) : Int) * 2 ^ cut m k = t at hnear
    generalize (2 : Int) ^ 23 * 2 ^ cut m k = D at hsmall hbig hnear
    generalize y * 2 ^ k = u at hsmall
    rw [Int.abs_eq_natAbs, Int.abs_eq_natAbs] at hnear
    rw [Int.abs_eq_natAbs, Int.abs_eq_natAbs]
    omega

/-- The bound beyond which the bits overflow, in half units in the last place of the largest finite value. -/
theorem overflow_bound (k : Nat) : (2 ^ 277 - 2 ^ 252) * 2 ^ k = (2 ^ 25 - 1) * 2 ^ (252 + k) := by
  rw [show (2 ^ 277 : Nat) = 2 ^ 25 * 2 ^ 252 by rw [← pow_add], ← Nat.sub_one_mul, Nat.mul_assoc, ← pow_add]

/-- At the last exponent of the finite range the significand overflows from half a unit on. -/
theorem roundShift_lt_iff {D : Nat} (hD : 2 ^ sh = 2 * D) (hm : m < 2 ^ 24 * 2 ^ sh) :
    roundShift m sh < 2 ^ 24 ↔ m < (2 ^ 25 - 1) * D := by
  have hdiv : 2 ^ sh * (m >>> sh) + m % 2 ^ sh = m := by rw [Nat.shiftRight_eq_div_pow]; exact Nat.div_add_mod m _
  have hmod : m % 2 ^ sh < 2 ^ sh := Nat.mod_lt _ (Nat.two_pow_pos sh)
  have hq : m >>> sh < 2 ^ 24 := by
    rwa [Nat.shiftRight_eq_div_pow, Nat.div_lt_iff_lt_mul (Nat.two_pow_pos sh)]
  unfold roundShift
  dsimp only
  generalize m % 2 ^ sh = r at hdiv hmod
  generalize m >>> sh = q at hdiv hq
  rw [hD] at hdiv hmod ⊢
  obtain hlt | rfl : q ≤ 2 ^ 24 - 2 ∨ q = 2 ^ 24 - 1 := by omega
  · have hle : 2 * D * q ≤ 2 * D * (2 ^ 24 - 2) := Nat.mul_le_mul_left _ hlt
    have : m < (2 ^ 25 - 1) * D := by omega
    split_ifs <;> omega
  · split_ifs <;> omega

/-- The bits overflow exactly when the number is beyond the largest finite value by half a unit in its last place. -/
theorem roundedBits_lt_iff (m k : Nat) : roundedBits m k < 255 <<< 23 ↔ m < (2 ^ 277 - 2 ^ 252) * 2 ^ k := by
  have hle := le_cut m k
  have hup := roundShift_cut_le m k
  have hlt := lt_two_pow_cut m k
  rw [overflow_bound, roundedBits, Nat.shiftLeft_eq, Nat.shiftLeft_eq]
  obtain h | h | h : cut m k ≤ 252 + k ∨ cut m k = 252 + k + 1 ∨ 252 + k + 2 ≤ cut m k := by omega
  · have hpow : 2 ^ cut m k ≤ 2 ^ (252 + k) := Nat.pow_le_pow_right (by decide) h
    generalize 2 ^ (252 + k) = D at hpow
    omega
  · have hD : 2 ^ cut m k = 2 * 2 ^ (252 + k) := by rw [h, pow_succ, Nat.mul_comm]
    rw [← roundShift_lt_iff hD hlt]
    omega
  · have hlow := le_roundShift_cut (m := m) (k := k) (by omega)
    have hbig := two_pow_cut_le (m := m) (k := k) (by omega)
    have hpow : 2 ^ (252 + k + 2) ≤ 2 ^ cut m k := Nat.pow_le_pow_right (by decide) h
    rw [pow_add] at hpow
    generalize 2 ^ (252 + k) = D at hpow
    omega

theorem fpRound_fields (h : roundedBits m k < 255 <<< 23) : finite (fpRound neg m k) ∧
    fpInt (fpRound neg m k) = (if neg then -(magnitude (roundedBits m k) : Int) else magnitude (roundedBits m k)) ∧
    ((fpRound neg m k).getLsbD 0 = false ↔ roundShift m (cut m k) % 2 = 0) := by
  rw [fpRound_eq, if_neg (not_le.mpr h), ← roundedBits_mod_two]
  exact fields_signed h

/-- A magnitude that does not overflow rounds to the nearest. -/
theorem nearest_fpRound {x : Int} (hx : x = if neg then -(m : Int) else m) : nearest x k (fpRound neg m k) := by
  have habs : |x| = m := by rw [hx]; split_ifs <;> simp
  have hlim : |x| < (2 ^ 277 - 2 ^ 252) * 2 ^ k ↔ roundedBits m k < 255 <<< 23 := by
    rw [habs, roundedBits_lt_iff, ← Nat.cast_lt (α := Int), Nat.cast_mul,
      Nat.cast_sub (Nat.pow_le_pow_right (by decide) (by decide))]
    push_cast
    rfl
  unfold nearest
  by_cases hbits : roundedBits m k < 255 <<< 23
  · rw [if_pos (hlim.mpr hbits)]
    obtain ⟨hfin, hval, heven⟩ := fpRound_fields (neg := neg) hbits
    have hmag : (magnitude (roundedBits m k) : Int) * 2 ^ k = roundShift m (cut m k) * 2 ^ cut m k := by
      exact_mod_cast magnitude_roundedBits m k
    refine ⟨hfin, fun v _ => ?_⟩
    obtain ⟨f, e, hf, hv⟩ := fpMag_shape v
    rw [← natAbs_fpInt] at hv
    have hcancel {y z : Int} (h : y * 2 ^ k = z * 2 ^ k) : y = z := Int.eq_of_mul_eq_mul_right (by positivity) h
    rw [hval, heven, hx]
    cases neg
    · obtain ⟨hnear, htie⟩ := cut_nearest (m := m) (k := k) hf hv
      rw [← hmag] at hnear htie
      exact ⟨hnear, fun heq hne => htie heq fun h => hne (hcancel h)⟩
    · obtain ⟨hnear, htie⟩ := cut_nearest (m := m) (k := k) (y := -fpInt v) hf (by rwa [Int.natAbs_neg])
      have hneg (t : Int) : |t * 2 ^ k - -(m : Int)| = |(-t) * 2 ^ k - m| := by
        rw [← abs_neg]
        congr 1
        ring
      rw [← hmag] at hnear htie
      simp only [if_true, hneg, neg_neg]
      exact ⟨hnear, fun heq hne => htie heq fun h => hne (neg_eq_iff_eq_neg.mp (hcancel h))⟩
  · have hinf : fpRound neg m k = fpInf neg := by rw [fpRound_eq, if_pos (not_lt.mp hbits)]
    rw [if_neg (hlim.not.mpr hbits), hinf, hx]
    have hm : 0 < m := by
      rw [roundedBits_lt_iff, overflow_bound] at hbits
      exact lt_of_lt_of_le (by positivity) (not_lt.mp hbits)
    cases neg
    · rw [if_neg (by simp)]
      rfl
    · rw [if_pos (by simpa using hm)]
      rfl

/-! ### The operations -/

theorem nearest_fpRoundInt (zeroNeg : Bool) (x : Int) : nearest x 0 (fpRoundInt zeroNeg x) := by
  refine nearest_fpRound ?_
  by_cases h0 : x = 0
  · subst h0
    cases zeroNeg <;> rfl
  · rw [if_neg h0]
    by_cases hneg : x < 0
    · rw [decide_eq_true hneg, if_pos rfl]
      omega
    · rw [decide_eq_false hneg, if_neg (by decide)]
      omega

theorem not_nan (h : finite w) : fpIsNaN w = false := by simp [fpIsNaN, beq_eq_false_iff_ne.mpr h]

theorem not_inf (h : finite w) : fpIsInf w = false := by simp [fpIsInf, beq_eq_false_iff_ne.mpr h]

theorem fpSum_finite {op : FpOp} {a b b' : Word} (ha : finite a) (hb : finite b) :
    fpSum op a b b' = fpRoundInt (fpSign a && fpSign b) (fpInt a + fpInt b) := by
  simp [fpSum, not_nan ha, not_nan hb, not_inf ha, not_inf hb]

theorem fneg_fields (w : Word) : fpExp (fneg w) = fpExp w ∧ fpFrac (fneg w) = fpFrac w ∧ fpSign (fneg w) = !fpSign w := by
  unfold fpExp fpFrac fpSign fneg
  refine ⟨?_, ?_, ?_⟩
  · rw [BitVec.extractLsb'_xor, show BitVec.extractLsb' 23 8 (0x80000000 : Word) = 0#_ by decide, BitVec.xor_zero]
  · rw [BitVec.extractLsb'_xor, show BitVec.extractLsb' 0 23 (0x80000000 : Word) = 0#_ by decide, BitVec.xor_zero]
  · rw [BitVec.getLsbD_xor, show (0x80000000 : Word).getLsbD 31 = true by decide, Bool.xor_true]

theorem fpInt_fneg (w : Word) : fpInt (fneg w) = -fpInt w := by
  obtain ⟨hexp, hfrac, hsign⟩ := fneg_fields w
  have hmag : fpMag (fneg w) = fpMag w := by rw [fpMag, hexp, hfrac, fpMag]
  rw [fpInt, fpInt, hsign, hmag]
  cases fpSign w <;> simp

theorem nearest_fmul {a b : Word} (ha : finite a) (hb : finite b) : nearest (fpInt a * fpInt b) 149 (fmul a b) := by
  have hmul : fmul a b = fpRound (fpSign a != fpSign b) (fpMag a * fpMag b) 149 := by
    simp [fmul, not_nan ha, not_nan hb, not_inf ha, not_inf hb]
  rw [hmul]
  refine nearest_fpRound ?_
  unfold fpInt
  cases fpSign a <;> cases fpSign b <;> simp

/-- Settles O41: every operation rounds its exact result once. -/
theorem arithmeticRoundsToNearestEven : Obligations.ArithmeticRoundsToNearestEven := by
  refine ⟨fun a b ha hb => ⟨?_, ?_, nearest_fmul ha hb⟩, fun n => nearest_fpRoundInt _ _⟩
  · rw [fadd, fpSum_finite ha hb]
    exact nearest_fpRoundInt _ _
  · have hb' : finite (fneg b) := by rwa [finite, (fneg_fields b).1]
    rw [fsub, fpSum_finite ha hb', fpInt_fneg, ← sub_eq_add_neg]
    exact nearest_fpRoundInt _ _

end Sys2Proof.Proofs.Rounding
end

section
/-! `IMDCT` (R226, R229): the transform reads the first N coefficients only, and takes zeros to zeros. -/

namespace Sys2Proof.Proofs.Transform

open Sys2Proof.Machine Sys2Proof.Claims Sys2Proof.Proofs.Commands Sys2Proof.Proofs.Imdct
open Sys2Proof.Proofs.Precision

variable {s : State} {c : Chan} {rom : Config} {b i : Nat} {x y : Lines} {w a d : Word} {P : Word → Prop}

/-! ### The command (R226) -/

/-- The transform depends on the first N coefficients only. -/
theorem dct4_congr (hb : 1 ≤ b) (h : ∀ n, n < 2 ^ b → Lines.at x n = Lines.at y n) : dct4 rom b x = dct4 rom b y := by
  have hstep : preRotate rom b x = preRotate rom b y := by
    refine List.foldl_ext _ _ _ fun t i hi => ?_
    have hi : i < 2 ^ (b - 1) := List.mem_range.mp hi
    have hdouble := two_pow_eq_double_half hb
    rw [preRotateStep, preRotateStep, h (2 * i) (by omega), h (2 ^ b - 1 - 2 * i) (by omega)]
  rw [dct4, dct4, hstep]

theorem imdctRule_ok (hb : sizeOk (s.chan c).mbits.toNat = true) : imdctRule c s = .ok (s.setChan c { s.chan c with
    pcm := (overlapAdd s.rom (s.chan c).mbits.toNat (dct4 s.rom (s.chan c).mbits.toNat (s.chan c).spec)
      (s.chan c).pcm (s.chan c).prev).1
    prev := (overlapAdd s.rom (s.chan c).mbits.toNat (dct4 s.rom (s.chan c).mbits.toNat (s.chan c).spec)
      (s.chan c).pcm (s.chan c).prev).2 }) := by
  rw [imdctRule, imdctOn_ok hb]
  rfl

theorem sizeOk_of (h : b = 7 ∨ b = 8) : sizeOk b = true := by
  obtain rfl | rfl := h <;> rfl

theorem sizeOk_eq_false (h7 : b ≠ 7) (h8 : b ≠ 8) : sizeOk b = false := by
  rw [sizeOk, beq_eq_false_iff_ne.mpr h7, beq_eq_false_iff_ne.mpr h8]
  rfl

/-- Settles O46: the rule's own result, with any coefficients that agree below N. -/
theorem imdctTransformsAndOverlaps : Obligations.ImdctTransformsAndOverlaps := by
  rintro s c b x hs rfl
  refine ⟨fun hb hx => ?_, fun h7 h8 => ?_⟩
  · rw [exec_ok (i := .imdct c) hs rfl (imdctRule_ok (sizeOk_of hb)), finished_setChan,
      dct4_congr (y := (s.chan c).spec) (by omega) hx]
  · have hrule : imdctRule c s = .error (s.raiseHere .badSize) := by
      rw [imdctRule, imdctOn_error (sizeOk_eq_false h7 h8), error_bind]
    exact ⟨_, exec_error (i := .imdct c) hs rfl hrule, Common.reports_fail (unspec_keeps (.imdct c) _ s), rfl⟩

/-! ### Arithmetic on zeros -/

theorem fpIsZero_iff : fpIsZero w = true ↔ ∃ neg, w = fpSignBit neg := by
  constructor
  · intro h
    rw [fpIsZero, Bool.and_eq_true, beq_iff_eq, beq_iff_eq, fpExp, fpFrac, BitVec.extractLsb'_toNat,
      BitVec.extractLsb'_toNat, Nat.shiftRight_eq_div_pow, Nat.shiftRight_zero] at h
    obtain ⟨hexp, hfrac⟩ := h
    have hw := w.isLt
    obtain hlow | hhigh : w.toNat = 0 ∨ w.toNat = 2 ^ 31 := by omega
    · exact ⟨false, BitVec.eq_of_toNat_eq hlow⟩
    · exact ⟨true, BitVec.eq_of_toNat_eq hhigh⟩
  · rintro ⟨neg, rfl⟩
    cases neg <;> decide

theorem fadd_zeros (p q : Bool) : fadd (fpSignBit p) (fpSignBit q) = fpSignBit (p && q) := by
  cases p <;> cases q <;> decide

theorem fsub_zeros (p q : Bool) : fsub (fpSignBit p) (fpSignBit q) = fpSignBit (p && !q) := by
  cases p <;> cases q <;> decide

theorem fneg_zero (p : Bool) : fneg (fpSignBit p) = fpSignBit (!p) := by cases p <;> decide

theorem fpRound_zero (neg : Bool) : fpRound neg 0 149 = fpSignBit neg := by cases neg <;> decide

theorem zero_fields (neg : Bool) : fpIsNaN (fpSignBit neg) = false ∧ fpIsInf (fpSignBit neg) = false ∧
    fpMag (fpSignBit neg) = 0 ∧ fpSign (fpSignBit neg) = neg := by
  cases neg <;> decide

/-- A zero times a finite number is a zero, with the product's sign. -/
theorem fmul_zero_left (h : finite w) (p : Bool) : fmul (fpSignBit p) w = fpSignBit (p != fpSign w) := by
  obtain ⟨hnan, hinf, hmag, hsign⟩ := zero_fields p
  have hwnan : fpIsNaN w = false := by rw [fpIsNaN, beq_eq_false_iff_ne.mpr h, Bool.false_and]
  have hwinf : fpIsInf w = false := by rw [fpIsInf, beq_eq_false_iff_ne.mpr h, Bool.false_and]
  rw [fmul, hnan, hinf, hmag, hsign, hwnan, hwinf, Nat.zero_mul]
  exact fpRound_zero _

theorem fmul_zero_right (h : finite w) (p : Bool) : fmul w (fpSignBit p) = fpSignBit (fpSign w != p) := by
  obtain ⟨hnan, hinf, hmag, hsign⟩ := zero_fields p
  have hwnan : fpIsNaN w = false := by rw [fpIsNaN, beq_eq_false_iff_ne.mpr h, Bool.false_and]
  have hwinf : fpIsInf w = false := by rw [fpIsInf, beq_eq_false_iff_ne.mpr h, Bool.false_and]
  rw [fmul, hnan, hinf, hmag, hsign, hwnan, hwinf, Nat.mul_zero]
  exact fpRound_zero _

/-! ### A property that the transform keeps -/

/-- A property of words that holds of +0.0 and that the operations of the transform, with the tables of `rom`, keep. -/
structure KeptByTransform (rom : Config) (b : Nat) (P : Word → Prop) : Prop where
  zero : P 0
  add : ∀ {a d}, P a → P d → P (fadd a d)
  sub : ∀ {a d}, P a → P d → P (fsub a d)
  rotate : ∀ {a d} k i, P a → P d →
    P (fadd (fmul a (rom.tcosAt k i)) (fmul d (rom.tsinAt k i))) ∧ P (fsub (fmul a (rom.tsinAt k i)) (fmul d (rom.tcosAt k i)))
  scale : ∀ {a}, P a → P (fmul a (rom.imdctScale b))

/-- Every cell has the property. -/
def allCells (P : Word → Prop) (t : Lines) : Prop := ∀ j, P (Lines.at t j)

theorem allCells_put {t : Lines} (h : allCells P t) (hw : P w) (i : Nat) : allCells P (Lines.put t i w) := by
  intro j
  rw [lines_at_put]
  split_ifs
  · exact hw
  · exact h j

theorem foldl_keeps {α β : Type} {Q : β → Prop} {f : β → α → β} {l : List α} (h : ∀ t, Q t → ∀ a ∈ l, Q (f t a)) {t : β}
    (ht : Q t) : Q (l.foldl f t) :=
  List.foldlRecOn l f ht h

section
variable (hP : KeptByTransform rom b P)
include hP

theorem allCells_zero : allCells P Lines.zero := fun j => by
  rw [lines_at_zero]
  exact hP.zero

theorem preRotate_allCells (hb : 1 ≤ b) (h : ∀ n, n < 2 ^ b → P (Lines.at x n)) : allCells P (preRotate rom b x) := by
  refine foldl_keeps (fun t ht i hi => ?_) (allCells_zero hP)
  have hi : i < 2 ^ (b - 1) := List.mem_range.mp hi
  have hdouble := two_pow_eq_double_half hb
  obtain ⟨heven, hodd⟩ := hP.rotate b i (h (2 * i) (by omega)) (h (2 ^ b - 1 - 2 * i) (by omega))
  exact allCells_put (allCells_put ht heven _) hodd _

theorem butterfly_allCells {t : Lines} (h : allCells P t) (k i f g : Nat) : allCells P (butterfly rom k i f g t) := by
  obtain ⟨heven, hodd⟩ := hP.rotate k i (hP.sub (h f) (h g)) (hP.sub (h (f + 1)) (h (g + 1)))
  have h1 := allCells_put h (hP.add (h f) (h g)) f
  exact allCells_put (allCells_put (allCells_put h1 (hP.add (h1 (f + 1)) (h1 (g + 1))) _) heven _) hodd _

theorem butterflyStage_allCells {t : Lines} (h : allCells P t) (st : Nat) : allCells P (butterflyStage rom b t st) := by
  rw [butterflyStage_eq_foldl]
  exact foldl_keeps (Q := allCells P) (f := stageStep rom b st) (fun t ht p _ => butterfly_allCells hP ht _ _ _ _) h

theorem butterflies_allCells {t : Lines} (h : allCells P t) : allCells P (butterflies rom b t) :=
  foldl_keeps (Q := allCells P) (f := butterflyStage rom b) (fun _ ht st _ => butterflyStage_allCells hP ht st) h

theorem dct4_allCells (hb : 1 ≤ b) (h : ∀ n, n < 2 ^ b → P (Lines.at x n)) : allCells P (dct4 rom b x) := by
  have ht : allCells P (butterflies rom b (preRotate rom b x)) := butterflies_allCells hP (preRotate_allCells hP hb h)
  intro j
  rw [dct4, shuffleScale, lines_at_fill]
  split_ifs
  · exact hP.scale (ht _)
  · exact allCells_zero hP j

end

/-! ### Zero in, zero out (R229) -/

/-- Products with finite tables keep zeros. -/
theorem zero_keptByTransform (htrig : ∀ k i, finite (rom.tsinAt k i) ∧ finite (rom.tcosAt k i))
    (hscale : finite (rom.imdctScale b)) : KeptByTransform rom b (fun w => ∃ neg, w = fpSignBit neg) where
  zero := ⟨false, rfl⟩
  add := by
    rintro _ _ ⟨p, rfl⟩ ⟨q, rfl⟩
    exact ⟨_, fadd_zeros p q⟩
  sub := by
    rintro _ _ ⟨p, rfl⟩ ⟨q, rfl⟩
    exact ⟨_, fsub_zeros p q⟩
  rotate := by
    rintro _ _ k i ⟨p, rfl⟩ ⟨q, rfl⟩
    obtain ⟨hsin, hcos⟩ := htrig k i
    rw [fmul_zero_left hcos, fmul_zero_left hsin, fmul_zero_left hsin, fmul_zero_left hcos]
    exact ⟨⟨_, fadd_zeros _ _⟩, ⟨_, fsub_zeros _ _⟩⟩
  scale := by
    rintro _ ⟨p, rfl⟩
    exact ⟨_, fmul_zero_left hscale p⟩

/-- A finite number with sign +. -/
def nonneg (w : Word) : Prop := finite w ∧ fpSign w = false

/-- Where the sines are not negative, +0.0 is kept with its sign, whatever the signs of the cosines. -/
theorem posZero_keptByTransform (htrig : ∀ k i, nonneg (rom.tsinAt k i) ∧ finite (rom.tcosAt k i))
    (hscale : nonneg (rom.imdctScale b)) : KeptByTransform rom b (· = fpSignBit false) where
  zero := rfl
  add := by
    rintro _ _ rfl rfl
    exact fadd_zeros _ _
  sub := by
    rintro _ _ rfl rfl
    exact fsub_zeros _ _
  rotate := by
    rintro _ _ k i rfl rfl
    obtain ⟨⟨hsin, hpos⟩, hcos⟩ := htrig k i
    rw [fmul_zero_left hcos, fmul_zero_left hsin, hpos, fadd_zeros, fsub_zeros]
    exact ⟨by rw [bne_self_eq_false, Bool.and_false], by rw [bne_self_eq_false, Bool.false_and]⟩
  scale := by
    rintro _ rfl
    rw [fmul_zero_left hscale.1, hscale.2]
    rfl

/-! ### The default tables (R220, R222) -/

/-- The low 31 bits below an infinity's, and no sign, decided. -/
def nonnegWord (w : Word) : Bool := fpExp w != 255 && !fpSign w

theorem nonneg_of (h : nonnegWord w = true) : nonneg w := by
  rw [nonnegWord, Bool.and_eq_true, bne_iff_ne, Bool.not_eq_true'] at h
  exact h

theorem getD_all {p : Word → Bool} {l : List Word} (h : l.all p = true) (h0 : p 0 = true) (i : Nat) :
    p (l.getD i 0) = true := by
  by_cases hi : i < l.length
  · rw [List.getD_eq_getElem l 0 hi]
    exact List.all_eq_true.mp h _ (List.getElem_mem hi)
  · rwa [List.getD_eq_default _ _ (Nat.le_of_not_lt hi)]

theorem rows_all {p : Word → Bool} {l : List (List Word)} (h : l.all (·.all p) = true) (h0 : p 0 = true) (k i : Nat) :
    p ((l.getD k []).getD i 0) = true := by
  refine getD_all ?_ h0 i
  by_cases hk : k < l.length
  · rw [List.getD_eq_getElem l [] hk]
    exact List.all_eq_true.mp h _ (List.getElem_mem hk)
  · rw [List.getD_eq_default _ _ (Nat.le_of_not_lt hk)]
    rfl

theorem tsinDefaultRows_nonneg : tsinDefaultRows.all (·.all nonnegWord) = true := by decide +kernel

theorem tcosDefaultRows_finite : tcosDefaultRows.all (·.all (fpExp · != 255)) = true := by decide +kernel

theorem windowDefaultRow_nonneg : (windowDefaultRow 7).all nonnegWord = true ∧ (windowDefaultRow 8).all nonnegWord = true := by
  decide +kernel

/-- The tables of size class `b` that the signs of R229 need. -/
structure NonnegTables (rom : Config) (b : Nat) : Prop where
  tsin : ∀ k i, nonneg (rom.tsinAt k i)
  tcos : ∀ k i, finite (rom.tcosAt k i)
  window : ∀ i, nonneg (rom.window b i)

theorem nonnegTables_default (h : usesDefaultTables rom = true) (hb : b = 7 ∨ b = 8) : NonnegTables rom b := by
  simp only [usesDefaultTables, Bool.and_eq_true, beq_iff_eq] at h
  obtain ⟨⟨⟨hsin, hcos⟩, h7⟩, h8⟩ := h
  obtain ⟨hw7, hw8⟩ := windowDefaultRow_nonneg
  refine ⟨fun k i => nonneg_of ?_, fun k i => ?_, fun i => nonneg_of ?_⟩
  · rw [Config.tsinAt, hsin]
    exact rows_all tsinDefaultRows_nonneg rfl k i
  · rw [Config.tcosAt, hcos]
    exact bne_iff_ne.mp (rows_all tcosDefaultRows_finite rfl k i)
  · obtain rfl | rfl := hb
    · rw [Config.window, if_pos rfl, h7]
      exact getD_all hw7 rfl i
    · rw [Config.window, if_neg (by decide), h8]
      exact getD_all hw8 rfl i

theorem fpSign_of_pos (h : 0 < fpInt w) : fpSign w = false := by
  unfold fpInt at h
  split_ifs at h with hs
  · omega
  · exact Bool.not_eq_true _ ▸ hs

/-! ### The samples -/

/-- The end of an `IMDCT` of size class 7 or 8. -/
theorem exec_imdct (hs : s.status.initDone = true) (hb : b = 7 ∨ b = 8) (hm : b = (s.chan c).mbits.toNat) :
    ∃ t, exec (.imdct c) s = .next t ∧ ((t.chan c).pcm, (t.chan c).prev) =
      overlapAdd s.rom b (dct4 s.rom b (s.chan c).spec) (s.chan c).pcm (s.chan c).prev := by
  subst hm
  refine ⟨_, exec_ok (i := .imdct c) hs rfl (imdctRule_ok (sizeOk_of hb)), ?_⟩
  rw [chan_complete_setChan]

theorem pairAt_of {t : State} {r : Lines × Lines} (h : ((t.chan c).pcm, (t.chan c).prev) = r) (j : Nat) :
    (Lines.at (t.chan c).pcm j, Lines.at (t.chan c).prev j) = pairAt r j := by
  rw [← h]
  rfl

theorem i16Bits_zero (neg : Bool) : i16Bits (fpSignBit neg) = 0 := by cases neg <;> decide

/-- Zeros are overlap-added to zeros. -/
theorem overlapAdd_zeros {u pcm p : Lines} {h j : Nat} (hb : b = 7 ∨ b = 8) (hh : h = 2 ^ (b - 1))
    (hw : ∀ i, finite (rom.window b i)) (hu : allCells (fun w => ∃ neg, w = fpSignBit neg) u)
    (hp : ∀ n, n < 2 * h → ∃ neg, Lines.at p n = fpSignBit neg) (hj : j < 2 * h) :
    ∃ m n, pairAt (overlapAdd rom b u pcm p) j = (fpSignBit m, fpSignBit n) := by
  have hcell {i : Nat} (hi : i < h) := overlapAdd_cells rom u pcm p (by omega) (by omega) (hh ▸ hi)
  rw [← hh] at hcell
  by_cases hlow : j < h
  · obtain ⟨m, hm⟩ := hu (j + h)
    obtain ⟨n, hn⟩ := hu (h - 1 - j)
    obtain ⟨q, hq⟩ := hp j hj
    rw [(hcell hlow).1, hm, hn, hq, fneg_zero, fmul_zero_right (hw _), fmul_zero_right (hw _), fadd_zeros]
    exact ⟨_, _, rfl⟩
  · obtain ⟨i, rfl⟩ : ∃ i, j = i + h := ⟨j - h, by omega⟩
    obtain ⟨m, hm⟩ := hu (2 ^ b - 1 - i)
    obtain ⟨n, hn⟩ := hu i
    obtain ⟨q, hq⟩ := hp (i + h) hj
    rw [(hcell (by omega)).2, hm, hn, hq, fneg_zero, fmul_zero_right (hw _), fmul_zero_right (hw _), fsub_zeros]
    exact ⟨_, _, rfl⟩

/-- The signs, where no table entry is negative: those of the overlap are +0.0 in the upper half, of either sign in the
lower. -/
theorem overlapAdd_signs {u pcm p : Lines} {h : Nat} {neg : Bool} (hb : b = 7 ∨ b = 8) (hh : h = 2 ^ (b - 1))
    (hw : ∀ i, nonneg (rom.window b i)) (hu : allCells (· = fpSignBit false) u) (hi : i < h)
    (hlow : Lines.at p i = fpSignBit neg) (hhigh : Lines.at p (i + h) = fpSignBit false) :
    pairAt (overlapAdd rom b u pcm p) i = (fpSignBit false, fpSignBit true) ∧
      pairAt (overlapAdd rom b u pcm p) (i + h) = (fpSignBit true, fpSignBit false) := by
  have hcell := overlapAdd_cells rom u pcm p (by omega) (by omega) (hh ▸ hi)
  rw [← hh] at hcell
  obtain ⟨hcellLow, hcellHigh⟩ := hcell
  have hmul (i : Nat) (neg : Bool) : fmul (rom.window b i) (fpSignBit neg) = fpSignBit neg := by
    rw [fmul_zero_right (hw i).1, (hw i).2, Bool.false_bne]
  rw [hcellLow, hcellHigh, hu, hu, hu, hu, hlow, hhigh, fneg_zero, hmul, hmul, hmul, hmul, fadd_zeros, fsub_zeros]
  exact ⟨rfl, rfl⟩

/-- Settles O47: zeros stay zeros through every pass, and with sines, window and scale not negative so do their signs. -/
theorem zeroSpectrumGivesZeroSamples : Obligations.ZeroSpectrumGivesZeroSamples := by
  intro s c b h hs hm hb hh
  obtain ⟨t, ht, hcells⟩ := exec_imdct (c := c) hs hb hm
  have hpow : 2 ^ b = 2 * h := by rw [hh]; exact two_pow_eq_double_half (by omega)
  refine ⟨fun htrig hw hscale hzero => ⟨t, ht, fun n hn => ?_⟩, fun htab hscale hpos hspec hprev => ⟨t, ht, fun i hi => ?_⟩⟩
  · have hu := dct4_allCells (x := (s.chan c).spec) (zero_keptByTransform (b := b) htrig hscale) (by omega)
      fun n hn => fpIsZero_iff.mp (hzero n (hpow ▸ hn)).1
    obtain ⟨m, q, hpair⟩ := overlapAdd_zeros (pcm := (s.chan c).pcm) hb hh hw hu
      (fun n hn => fpIsZero_iff.mp (hzero n hn).2) hn
    obtain ⟨hpcm, hprev⟩ := Prod.ext_iff.mp ((pairAt_of hcells n).trans hpair)
    exact ⟨fpIsZero_iff.mpr ⟨m, hpcm⟩, fpIsZero_iff.mpr ⟨q, hprev⟩, (congrArg i16Bits hpcm).trans (i16Bits_zero m)⟩
  · obtain ⟨hsin, hcos, hw⟩ := nonnegTables_default htab hb
    have hu := dct4_allCells (x := (s.chan c).spec)
      (posZero_keptByTransform (b := b) (fun k i => ⟨hsin k i, hcos k i⟩) ⟨hscale, fpSign_of_pos hpos⟩) (by omega)
      fun n hn => hspec n (hpow ▸ hn)
    obtain ⟨neg, hlow, hhigh⟩ : ∃ neg, Lines.at (s.chan c).prev i = fpSignBit neg ∧
        Lines.at (s.chan c).prev (i + h) = fpSignBit false := by
      obtain hall | hleft := hprev
      · exact ⟨false, hall i (by omega), hall (i + h) (by omega)⟩
      · exact ⟨true, hleft i hi⟩
    obtain ⟨hpairLow, hpairHigh⟩ := overlapAdd_signs (pcm := (s.chan c).pcm) hb hh hw hu hi hlow hhigh
    obtain ⟨hpcmLow, hprevLow⟩ := Prod.ext_iff.mp ((pairAt_of hcells i).trans hpairLow)
    obtain ⟨hpcmHigh, hprevHigh⟩ := Prod.ext_iff.mp ((pairAt_of hcells (i + h)).trans hpairHigh)
    exact ⟨hpcmLow, hpcmHigh, hprevLow, hprevHigh⟩

end Sys2Proof.Proofs.Transform
end

section
/-! States with the same input, tables and configuration read the same stream: every reader of the model answers alike in
both (R63, R110 to R113, R133). -/

namespace Sys2Proof.Proofs.Stream

open Sys2Proof.Machine Sys2Proof.Claims

variable {s t : State}

/-- `t` reads the stream of `s`. -/
structure SameStream (s t : State) : Prop where
  cfg : t.cfg = s.cfg
  hlut : t.hlut = s.hlut
  inBuf : t.inBuf = s.inBuf
  inLen : t.inLen = s.inLen
  ramEpoch : t.ramEpoch = s.ramEpoch

section
variable (h : SameStream s t)
include h

theorem rom_eq : t.rom = s.rom := by rw [State.rom, State.rom, h.cfg]

theorem limitBits_eq : t.limitBits = s.limitBits := by
  unfold State.limitBits State.rom
  rw [h.inLen, h.cfg]

theorem streamBit_eq : t.streamBit = s.streamBit := by
  unfold State.streamBit State.inByte
  rw [h.inBuf, h.ramEpoch]

theorem field_eq : t.field = s.field := by
  funext p n
  induction n with
  | zero => rfl
  | succ n ih => rw [State.field, State.field, ih, streamBit_eq h]

theorem bitAt_eq : t.bitAt = s.bitAt := by
  unfold State.bitAt
  rw [limitBits_eq h, streamBit_eq h]

theorem peekBits_eq : t.peekBits = s.peekBits := by
  funext pos n
  induction n with
  | zero => rfl
  | succ n ih =>
    funext p v
    simp only [State.peekBits, ih, bitAt_eq h]

theorem peek_eq : t.peek = s.peek := by
  unfold State.peek
  rw [peekBits_eq h]

theorem read_eq : t.read = s.read := by
  unfold State.read
  rw [peek_eq h]

theorem readSigned_eq : t.readSigned = s.readSigned := by
  unfold State.readSigned
  rw [read_eq h]

theorem readMany_eq : t.readMany = s.readMany := by
  funext w k
  induction k with
  | zero => rfl
  | succ k ih =>
    funext pos
    simp only [State.readMany, ih, read_eq h]

theorem readManySigned_eq : t.readManySigned = s.readManySigned := by
  funext w k
  induction k with
  | zero => rfl
  | succ k ih =>
    funext pos
    simp only [State.readManySigned, ih, readSigned_eq h]

theorem huffAt_eq : t.huffAt = s.huffAt := by
  funext pos k
  unfold State.huffAt
  rw [rom_eq h, peek_eq h, h.hlut]

theorem gradientFields_eq : t.gradientFields = s.gradientFields := by
  unfold State.gradientFields State.gradientDirect State.gradientFixedEnd
  rw [rom_eq h, read_eq h]

theorem sfChain_eq : t.sfChain = s.sfChain := by
  funext bl k
  induction k with
  | zero => rfl
  | succ k ih =>
    funext prev pos
    simp only [State.sfChain, ih, huffAt_eq h]

theorem sfCodedValues_eq : t.sfCodedValues = s.sfCodedValues := by
  funext bl nqu pos
  cases nqu with
  | zero => rfl
  | succ k => simp only [State.sfCodedValues, read_eq h, sfChain_eq h]

theorem sfDeltas_eq (hsf : t.ch0.sf = s.ch0.sf) : t.sfDeltas = s.sfDeltas := by
  funext id k
  induction k with
  | zero => rfl
  | succ k ih =>
    funext i pos
    simp only [State.sfDeltas, ih, huffAt_eq h, hsf]

theorem sfScheme_eq (hn : t.nqu = s.nqu) (hsf : t.ch0.sf = s.ch0.sf) : t.sfScheme = s.sfScheme := by
  have hA : t.schemeA = s.schemeA := by
    unfold State.schemeA
    rw [hn, rom_eq h, read_eq h, sfCodedValues_eq h]
  have hB : t.schemeB = s.schemeB := by
    unfold State.schemeB
    rw [hn, rom_eq h, read_eq h, readMany_eq h]
  have hC : t.schemeC = s.schemeC := by
    unfold State.schemeC
    rw [hn, read_eq h, sfDeltas_eq h hsf]
  unfold State.sfScheme
  rw [hA, hB, hC]

theorem joint2At_eq : t.joint2At = s.joint2At := by
  funext pos
  unfold State.joint2At
  rw [read_eq h, rom_eq h]

theorem joint4At_eq : t.joint4At = s.joint4At := by
  funext pos
  unfold State.joint4At
  rw [read_eq h, rom_eq h]

theorem joint4Groups_eq : t.joint4Groups = s.joint4Groups := by
  funext g
  induction g with
  | zero => rfl
  | succ g ih =>
    funext pos
    simp only [State.joint4Groups, ih, joint4At_eq h]

theorem unitLines_eq : t.unitLines = s.unitLines := by
  unfold State.unitLines
  rw [joint2At_eq h, joint4Groups_eq h, readManySigned_eq h]

theorem specUnits_eq : t.specUnits = s.specUnits := by
  funext prec is
  induction is with
  | nil => rfl
  | cons i is ih =>
    funext q pos
    simp only [State.specUnits, ih, unitLines_eq h, rom_eq h]

theorem fineUnits_eq : t.fineUnits = s.fineUnits := by
  funext precf is
  induction is with
  | nil => rfl
  | cons i is ih =>
    funext q pos
    simp only [State.fineUnits, ih, readManySigned_eq h, rom_eq h]

/-! ### What the stream holds -/

theorem lutsHold_iff : lutsHold t ↔ lutsHold s := by
  unfold lutsHold
  rw [rom_eq h, h.hlut]

theorem codesAt_eq : codesAt t = codesAt s := by
  funext id syms
  induction syms with
  | nil => rfl
  | cons i is ih =>
    funext p q
    rw [codesAt, codesAt, ih, rom_eq h, limitBits_eq h, field_eq h]

theorem factorsAt_eq : factorsAt t = factorsAt s := by
  unfold factorsAt
  rw [rom_eq h, limitBits_eq h, field_eq h, codesAt_eq h]

theorem coarseValue_eq : coarseValue t = coarseValue s := by
  unfold coarseValue
  rw [rom_eq h, field_eq h]

theorem channelAt_eq : channelAt t = channelAt s := by
  unfold channelAt
  rw [rom_eq h, limitBits_eq h, factorsAt_eq h, coarseValue_eq h]

theorem channelsAt_eq : channelsAt t = channelsAt s := by
  funext nqu gmode gbnd grad k
  induction k with
  | zero => rfl
  | succ k ih =>
    funext l ref p q
    rw [channelsAt, channelsAt, ih, channelAt_eq h]

theorem blocksAt_eq : blocksAt t = blocksAt s := by
  funext chb ns
  induction ns with
  | nil => rfl
  | cons nqu ns ih =>
    funext p q
    unfold blocksAt gradientEnd gradientRead
    rw [ih, rom_eq h, limitBits_eq h, field_eq h, channelsAt_eq h]

end

end Sys2Proof.Proofs.Stream
end

section
/-! `DECODE_FRAME` as the sequence of its standalone commands (R85, R253 to R258): a state of the command sequence and the
frame's state at the same place differ in the overlap buffers, the status and `BYTES_CONSUMED` only, and no rule of the
body reads these. -/

namespace Sys2Proof.Proofs.Sequence

open Sys2Proof.Machine Sys2Proof.Claims Sys2Proof.Proofs.Commands Sys2Proof.Proofs.Stream Sys2Proof.Proofs.Frame

variable {s t u w : State} {c d : Chan} {i : Instr} {is : List Instr} {x : Channel} {l : LocalCh}

/-! ### The frame's state beside a state of the sequence -/

/-- A channel inside a frame: the new overlap stands in `WORK_PREV`, and `PREV` is the one before the frame. -/
def frameChannel (old x : Channel) : Channel := { x with prev := old.prev, workPrev := x.prev }

/-- The frame's state where the command sequence, started in `s`, stands in `u`. -/
def asFrame (s u : State) : State :=
  { u with
    status := s.status
    bytesConsumed := 0
    ch0 := frameChannel s.ch0 u.ch0
    ch1 := frameChannel s.ch1 u.ch1 }

theorem sameStream_asFrame (s u : State) : SameStream u (asFrame s u) := ⟨rfl, rfl, rfl, rfl, rfl⟩

theorem chan_asFrame (s u : State) (c : Chan) : (asFrame s u).chan c = frameChannel (s.chan c) (u.chan c) := by
  cases c <;> rfl

theorem asFrame_complete (s u : State) : asFrame s u.complete = asFrame s u := rfl

/-! ### The rules of the body on it -/

/-- The rule that a frame runs for a command: `IMDCT` on `WORK_PREV` (R254), the alignment of a sub-block (R257), and
otherwise the command's own. -/
def frameRule : Instr → State → Except Raise State
  | .imdct c => imdctWorkRule c
  | .brAlign => fun s => alignPos Config.blockAlignBits s.brPos.toNat >>= fun p => .ok (s.setBrPos p)
  | i => ruleOf i

theorem parseBandRule_asFrame : parseBandRule (asFrame s u) = asFrame s <$> parseBandRule u := by
  unfold parseBandRule
  rw [read_eq (sameStream_asFrame s u)]
  simp only [map_bind]
  refine congrArg _ (funext fun coded => congrArg _ (funext fun flag => ?_))
  change (match u.rom.nquRom[coded.1 + u.rom.bandOffset]? with | none => _ | some nqu => _) = _
  cases u.rom.nquRom[coded.1 + u.rom.bandOffset]? <;> rfl

theorem parseGradientRule_asFrame : parseGradientRule (asFrame s u) = asFrame s <$> parseGradientRule u := by
  unfold parseGradientRule
  rw [read_eq (sameStream_asFrame s u), gradientFields_eq (sameStream_asFrame s u)]
  simp only [map_bind]
  rfl

theorem gradientBuildRule_asFrame : gradientBuildRule (asFrame s u) = asFrame s <$> gradientBuildRule u := by
  unfold gradientBuildRule
  simp only [apply_ite (asFrame s <$> ·)]
  rfl

theorem sfDecodeRule_asFrame : sfDecodeRule c l (asFrame s u) = asFrame s <$> sfDecodeRule c l u := by
  have hscheme : (asFrame s u).sfScheme = u.sfScheme := sfScheme_eq (sameStream_asFrame s u) rfl rfl
  unfold sfDecodeRule
  rw [read_eq (sameStream_asFrame s u), hscheme, chan_asFrame]
  simp only [map_bind]
  cases c <;> rfl

theorem pmaskBuildRule_asFrame : pmaskBuildRule c (asFrame s u) = asFrame s <$> pmaskBuildRule c u := by
  unfold pmaskBuildRule
  simp only [map_bind]
  cases c <;> rfl

theorem fineSplit_asFrame : fineSplit (asFrame s u) c = fineSplit u c := by cases c <;> rfl

theorem precisionCalcRule_asFrame : precisionCalcRule c (asFrame s u) = asFrame s <$> precisionCalcRule c u := by
  unfold precisionCalcRule
  rw [fineSplit_asFrame]
  simp only [map_bind]
  refine congrArg _ (funext fun _ => ?_)
  change (if 3 < u.gparam0.gmode.toNat then _ else _) = _
  split_ifs
  · rfl
  · cases c <;> rfl

theorem specDecodeRule_asFrame : specDecodeRule c (asFrame s u) = asFrame s <$> specDecodeRule c u := by
  unfold specDecodeRule
  rw [specUnits_eq (sameStream_asFrame s u), chan_asFrame]
  simp only [map_bind]
  cases c <;> rfl

theorem specFineDecodeRule_asFrame : specFineDecodeRule c (asFrame s u) = asFrame s <$> specFineDecodeRule c u := by
  unfold specFineDecodeRule
  rw [fineUnits_eq (sameStream_asFrame s u), chan_asFrame]
  simp only [map_bind]
  cases c <;> rfl

theorem dequantUnits_frameChannel (rom : Config) (old x : Channel) (pos : Nat) :
    dequantUnits rom (frameChannel old x) pos = dequantUnits rom x pos := by
  funext is
  induction is with
  | nil => rfl
  | cons i is ih =>
    funext v
    simp only [dequantUnits, ih]
    rfl

theorem dequantRule_asFrame : dequantRule c (asFrame s u) = asFrame s <$> dequantRule c u := by
  unfold dequantRule
  rw [chan_asFrame, dequantUnits_frameChannel]
  simp only [map_bind]
  cases c <;> rfl

theorem scaleRule_asFrame : scaleRule c (asFrame s u) = asFrame s <$> scaleRule c u := by
  unfold scaleRule
  rw [chan_asFrame]
  simp only [map_bind]
  cases c <;> rfl

theorem imdctWorkRule_asFrame : imdctWorkRule c (asFrame s u) = asFrame s <$> imdctRule c u := by
  have himdct (p : Lines) : imdctOn c (asFrame s u) p = imdctOn c u p := by
    unfold imdctOn
    rw [chan_asFrame]
    rfl
  unfold imdctWorkRule imdctRule
  rw [himdct, chan_asFrame]
  simp only [map_bind]
  cases c <;> rfl

theorem pcmData_asFrame : (asFrame s u).pcmData = u.pcmData := by
  have hpoint : (asFrame s u).framePoint = u.framePoint := by
    funext n
    unfold State.framePoint
    simp only [chan_asFrame]
    rfl
  unfold State.pcmData
  rw [hpoint]
  rfl

theorem pcmOutRule_asFrame : pcmOutRule (asFrame s u) = asFrame s <$> pcmOutRule u := by
  unfold pcmOutRule
  simp only [apply_ite (asFrame s <$> ·), pcmData_asFrame]
  rfl

/-! ### One command of the body -/

/-- The commands of a sub-block. -/
def inBody : Instr → Bool
  | .parseBand | .parseGradient | .gradientBuild | .brAlign | .sfDecode _ _ | .pmaskBuild _ | .precisionCalc _
  | .specDecode _ | .specFineDecode _ | .dequant _ | .scale _ | .imdct _ => true
  | _ => false

theorem frameRule_asFrame (hi : inBody i = true) (ha : i ≠ .brAlign) :
    frameRule i (asFrame s u) = asFrame s <$> ruleOf i u := by
  cases i with
  | brAlign => exact absurd rfl ha
  | parseBand => exact parseBandRule_asFrame
  | parseGradient => exact parseGradientRule_asFrame
  | gradientBuild => exact gradientBuildRule_asFrame
  | sfDecode c l => exact sfDecodeRule_asFrame
  | pmaskBuild c => exact pmaskBuildRule_asFrame
  | precisionCalc c => exact precisionCalcRule_asFrame
  | specDecode c => exact specDecodeRule_asFrame
  | specFineDecode c => exact specFineDecodeRule_asFrame
  | dequant c => exact dequantRule_asFrame
  | scale c => exact scaleRule_asFrame
  | imdct c => exact imdctWorkRule_asFrame
  | _ => cases hi

/-- Below the limit the aligned cursor fits the register, so `BR_ALIGN` with `ARG` 8 sets it. -/
theorem brAlignRule_eq (harg : u.arg = 8) (hc : cursor u ≤ u.limitBits) :
    brAlignRule u = .ok (u.setBrPos (alignUp 8 (cursor u))) := by
  have hnat : u.argNat = 8 := congrArg BitVec.toNat harg
  have hle := ((alignUp_advances u (cursor u)).2 hc).trans (limitBits_le u)
  rw [brAlignRule, hnat, if_neg (by decide), alignPos_ok (by decide), ok_bind]
  exact congrArg Except.ok (if_pos (hle.trans_lt (by decide)))

theorem onward_of_inBody (hi : inBody i = true) (ha : i ≠ .brAlign) (h : ruleOf i u = .ok w) : Onward u w := by
  cases i with
  | brAlign => exact absurd rfl ha
  | parseBand => exact onward_parseBandRule h
  | parseGradient => exact onward_parseGradientRule h
  | gradientBuild => exact onward_gradientBuildRule h
  | sfDecode c l => exact onward_sfDecodeRule h
  | pmaskBuild c => obtain ⟨-, rfl⟩ := pmaskBuildRule_shape h; exact onward_setChan u c _
  | precisionCalc c => obtain ⟨_, _, rfl⟩ := precisionCalcRule_shape h; exact onward_setChan u c _
  | specDecode c => exact onward_specDecodeRule h
  | specFineDecode c => exact onward_specFineDecodeRule h
  | dequant c => obtain ⟨_, rfl⟩ := dequantRule_shape h; exact onward_setChan u c _
  | scale c => obtain ⟨_, rfl⟩ := scaleRule_shape h; exact onward_setChan u c _
  | imdct c => obtain ⟨_, _, rfl⟩ := imdctRule_shape h; exact onward_setChan u c _
  | _ => cases hi

/-- What the command sequence from `s` keeps up to `u`, inside the frame. -/
structure Follows (s u : State) : Prop where
  cfg : u.cfg = s.cfg
  arg : u.arg = s.arg
  status : u.status.complete = s.status.complete
  below : cursor u ≤ u.limitBits

theorem follows_rule (h : Follows s u) (hk : Kept u w) (hb : cursor w ≤ w.limitBits) : Follows s w.complete where
  cfg := hk.cfg.trans h.cfg
  arg := hk.arg.trans h.arg
  status := (congrArg Status.complete hk.status).trans h.status
  below := hb

/-- A command without an error ran its rule. -/
theorem ruleOf_of_exec (h : exec i u = .next t) (he : t.status.err = false) : ∃ w, ruleOf i u = .ok w ∧ t = w.complete := by
  obtain hok | ⟨e, -, rfl⟩ | ⟨-, -, rfl⟩ | ⟨-, rfl⟩ := exec_cases h
  · exact hok
  all_goals cases he

theorem inBody_ne_init (hi : inBody i = true) : i ≠ .init := by
  rintro rfl
  cases hi

/-- One command of the sequence and the frame's rule for it. -/
theorem follows_exec (hf : Follows s u) (harg : s.arg = 8) (hi : inBody i = true) (h : exec i u = .next t)
    (he : t.status.err = false) : Follows s t ∧ frameRule i (asFrame s u) = .ok (asFrame s t) := by
  obtain ⟨w, hw, rfl⟩ := ruleOf_of_exec h he
  rw [asFrame_complete]
  by_cases ha : i = .brAlign
  · subst ha
    have hadv := alignUp_advances u (cursor u)
    obtain rfl : u.setBrPos (alignUp 8 (cursor u)) = w :=
      Except.ok.inj ((brAlignRule_eq (hf.arg.trans harg) hf.below).symm.trans hw)
    have ho : Onward u (u.setBrPos (alignUp 8 (cursor u))) := onward_of_advances (kept_setBrPos u _) rfl hadv
    exact ⟨follows_rule hf (kept_setBrPos u _) (ho.limit ▸ (ho.cursor hf.below).2),
      congrArg (· >>= _) (alignPos_ok (m := 8) (by decide))⟩
  · have ho := onward_of_inBody hi ha hw
    refine ⟨follows_rule hf (rule_keeps (inBody_ne_init hi) hw).kept (ho.limit ▸ (ho.cursor hf.below).2), ?_⟩
    rw [frameRule_asFrame hi ha, hw]
    rfl

/-! ### The body -/

/-- The frame's rules for these commands, one after the other. -/
def frameRules (is : List Instr) (s : State) : Except Raise State := is.foldlM (fun s i => frameRule i s) s

theorem frameRules_append (is js : List Instr) (s : State) :
    frameRules (is ++ js) s = frameRules is s >>= frameRules js := List.foldlM_append

theorem follows_runsTo (hf : Follows s u) (harg : s.arg = 8) (hall : ∀ i ∈ is, inBody i = true) (h : runsTo is u t) :
    Follows s t ∧ frameRules is (asFrame s u) = .ok (asFrame s t) := by
  induction is generalizing u with
  | nil =>
    cases h
    exact ⟨hf, rfl⟩
  | cons i is ih =>
    obtain ⟨v, hv, he, hrest⟩ := h
    obtain ⟨hfv, hrule⟩ := follows_exec hf harg (hall i List.mem_cons_self) hv he
    obtain ⟨hft, hrules⟩ := ih hfv (fun j hj => hall j (List.mem_cons_of_mem _ hj)) hrest
    refine ⟨hft, ?_⟩
    rw [frameRules, List.foldlM_cons, hrule, ok_bind]
    exact hrules

theorem frameRules_channelCommands (c : Chan) (l : LocalCh) (s : State) :
    frameRules (channelCommands c l) s = channelBody c l s := by
  simp only [frameRules, channelCommands, List.foldlM_cons, List.foldlM_nil, bind_pure]
  rfl

theorem ofNat_eq_localIndex (k : Nat) : LocalCh.ofNat k = localIndex k := by cases k <;> rfl

theorem frameRules_channels (chb b k l : Nat) (s : State) :
    frameRules ((List.range' l k).flatMap (fun l => channelCommands (slot (b * chb + l)) (localIndex l))) s =
      channelLoop chb b k l s := by
  induction k generalizing l s with
  | zero => rfl
  | succ k ih =>
    rw [List.range'_succ, List.flatMap_cons, frameRules_append, frameRules_channelCommands, channelLoop,
      PcmOut.ofNat_eq_slot, ofNat_eq_localIndex]
    exact congrArg _ (funext fun s => ih (l + 1) s)

theorem frameRules_blockCommands (chb b : Nat) (s : State) : frameRules (blockCommands chb b) s = subBlock chb b s := by
  have hchannels : frameRules ((List.range' 0 chb).flatMap fun l => channelCommands (slot (b * chb + l)) (localIndex l)) =
      channelLoop chb b chb 0 := funext fun s => frameRules_channels chb b chb 0 s
  rw [blockCommands, frameRules_append, frameRules_append, List.range_eq_range', hchannels]
  simp only [frameRules, List.foldlM_cons, List.foldlM_nil, bind_pure, bind_assoc]
  rfl

theorem frameRules_blocks (chb k b : Nat) (s : State) :
    frameRules ((List.range' b k).flatMap (blockCommands chb)) s = subBlockLoop chb k b s := by
  induction k generalizing b s with
  | zero => rfl
  | succ k ih =>
    rw [List.range'_succ, List.flatMap_cons, frameRules_append, frameRules_blockCommands, subBlockLoop]
    exact congrArg _ (funext fun s => ih (b + 1) s)

theorem inBody_of_mem_blockCommands {chb b : Nat} (h : i ∈ blockCommands chb b) : inBody i = true := by
  simp only [blockCommands, channelCommands, List.mem_append, List.mem_cons, List.mem_flatMap, List.not_mem_nil,
    or_false] at h
  rcases h with ((rfl | rfl | rfl) | ⟨_, _, rfl | rfl | rfl | rfl | rfl | rfl | rfl | rfl⟩) | rfl <;> rfl

/-! ### The header and the end -/

/-- The header's rule neither reads nor writes `BYTES_CONSUMED`. -/
theorem parseHeaderRule_bytesConsumed (s : State) (n : Word) :
    parseHeaderRule { s with bytesConsumed := n } = (fun t => { t with bytesConsumed := n }) <$> parseHeaderRule s := by
  have hs : SameStream s { s with bytesConsumed := n } := ⟨rfl, rfl, rfl, rfl, rfl⟩
  unfold parseHeaderRule
  rw [read_eq hs]
  simp only [map_bind, apply_ite ((fun t : State => { t with bytesConsumed := n }) <$> ·)]
  refine congrArg _ (funext fun sync => ?_)
  change (if sync.1 ≠ s.rom.syncWord then _ else _) = _
  refine congrArg₂ (ite _) rfl (congrArg _ (funext fun srid => congrArg _ (funext fun ccid => congrArg _ (funext fun flen =>
    congrArg _ (funext fun fstat => ?_)))))
  change (match s.rom.fbits srid.1 with | none => _ | some _ => _) = _
  cases s.rom.fbits srid.1 with
  | none => rfl
  | some fbits =>
    change (match s.rom.ccid ccid.1 with | none => _ | some _ => _) = _
    cases s.rom.ccid ccid.1 <;> rfl

/-- After the header the frame's snapshot is the frame's state beside the sequence. -/
theorem snapshot_header (h : parseHeaderRule s = .ok w) : snapshot { w with bytesConsumed := 0 } = asFrame s w := by
  obtain ⟨_, _, _, _, _, _, _, -, -, -, rfl⟩ := parseHeaderRule_shape h
  rfl

theorem commit_asFrame (hc : w.cfg = s.cfg) (hst : w.status.complete = s.status.complete) :
    (commit (asFrame s w)).complete = { w.complete with
      bytesConsumed := BitVec.ofInt 32 (w.complete.flen.toNat + s.rom.flenAdj)
      ch0 := { w.complete.ch0 with workPrev := w.complete.ch0.prev }
      ch1 := { w.complete.ch1 with workPrev := w.complete.ch1.prev } } := by
  have hbytes : (asFrame s w).frameBytes = w.flen.toNat + s.rom.flenAdj := by
    rw [State.rom, ← hc]
    rfl
  unfold State.complete commit
  rw [hbytes, hst]
  rfl

/-- Settles O52: the frame's rules take the frame's states beside those of the sequence to one another. -/
theorem aFrameEqualsItsCommandSequence : Obligations.AFrameEqualsItsCommandSequence := by
  intro s h b t e stop he harg hheader hccid hbody hstop hle hout
  obtain ⟨_, hparse, hperr, rfl⟩ := hheader
  obtain ⟨w, hinit, hw, rfl⟩ | ⟨_, -, -, rfl⟩ | ⟨-, rfl⟩ := runCommand_cases hparse
  rotate_left
  · cases hperr
  · cases hperr
  obtain ⟨hstart, hon⟩ := onward_parseHeaderRule hw
  have hkw := (keeps_parseHeaderRule hw).kept
  have hfh : Follows s w.complete := by
    refine ⟨hkw.cfg, hkw.arg, (congrArg Status.complete hkw.status : w.status.complete = s.status.complete), ?_⟩
    exact hon.limit ▸ (hon.cursor hstart).2
  obtain ⟨hfb, hblocks⟩ := follows_runsTo hfh harg
    (fun i hi => by obtain ⟨_, -, hi⟩ := List.mem_flatMap.mp hi; exact inBody_of_mem_blockCommands hi) hbody
  rw [asFrame_complete, List.range_eq_range', frameRules_blocks] at hblocks
  obtain ⟨_, hpcm, hterr, rfl⟩ := hout
  obtain ⟨v, hv, rfl⟩ := ruleOf_of_exec hpcm hterr
  have hkv := (rule_keeps (i := .pcmOut) nofun hv).kept
  have hbytes : (asFrame s b).frameBytes = b.flen.toNat + s.rom.flenAdj := by
    rw [State.rom, ← hfb.cfg]
    rfl
  have hend : frameEnd s.brPos.toNat (asFrame s b) = .ok (asFrame s { b with brPos := BitVec.ofNat 32 stop }) := by
    have hpos : (s.brPos.toNat : Int) + 8 * (asFrame s b).frameBytes = stop := by rw [hbytes, hstop]
    unfold frameEnd
    rw [hpos]
    refine (if_neg (not_lt.mpr (Int.ofNat_le.mpr hle))).trans ?_
    rw [Word.ofInt, BitVec.ofInt_natCast]
    rfl
  have hrule : decodeFrameRule s = .ok (commit (asFrame s v)) := by
    have hshape : (asFrame s w).frameShape = e := by
      unfold State.frameShape State.rom
      rw [show (asFrame s w).cfg = s.cfg from hkw.cfg]
      exact congrArg (Option.getD · _) hccid
    unfold decodeFrameRule
    rw [parseHeaderRule_bytesConsumed, hw]
    change subBlockLoop (snapshot { w with bytesConsumed := 0 }).frameShape.chb _ _ _ >>= _ = _
    rw [snapshot_header hw, hshape, hblocks, ok_bind, hend, ok_bind, pcmOutRule_asFrame,
      show pcmOutRule _ = _ from hv]
    rfl
  rw [exec_ok (i := .decodeFrame) hinit rfl hrule]
  exact congrArg _ (commit_asFrame (hkv.cfg.trans hfb.cfg) ((congrArg Status.complete hkv.status).trans hfb.status))

end Sys2Proof.Proofs.Sequence
end

section
/-! Readable scale factors, as a frame's stream holds them (R88, R170 to R174): each scheme decodes them. -/

namespace Sys2Proof.Proofs.ReadableFactors

open Sys2Proof.Machine Sys2Proof.Claims Sys2Proof.Proofs.Parameters Sys2Proof.Proofs.FieldReads
  Sys2Proof.Proofs.Precision Sys2Proof.Proofs.ScaleFactors

variable {s : State} {c : Chan} {l n p r : Nat} {ref fac : Nat → Int}

/-- The result of a scheme that decodes these factors and ends at `r`. -/
structure Decoded (s : State) (fac : Nat → Int) (r : Nat) (res : SfResult) : Prop where
  pos : res.pos = r
  below : r ≤ s.limitBits
  factors : ∀ i, i < s.nqu → Units.int (factorUnits res.factors) i = fac i

theorem sfOffset_lt (s : State) (p : Nat) : s.field p s.rom.sfOffsetBits < 256 :=
  (field_lt s p _).trans_le (Nat.pow_le_pow_right (n := 2) (by decide) (romBounds s).sfOffset)

theorem decoded_schemeA (hn : s.nqu ≤ 34) (hl : lutsHold s) (hmode : s.field p 1 = 0)
    (h : factorsAt s l s.nqu ref p fac r) (cfg : SfCfg) :
    ∃ res, s.schemeA cfg (p + 1) = .ok res ∧ Decoded s fac r res := by
  have hsel := field_lt s (p + 1) 2
  simp only [factorsAt, if_pos hmode] at h
  obtain ⟨hfit, hcodes⟩ := h
  have hcoded : ∃ syms, (s.nqu = 0 → syms = [] ∧ r = p + 3 + s.rom.sfOffsetBits + 3) ∧
      (0 < s.nqu → p + 3 + s.rom.sfOffsetBits + 3 + (s.field (p + 1) 2 + 3) ≤ s.limitBits ∧ syms.length + 1 = s.nqu ∧
        codesAt s (s.field (p + 1) 2 + 3) syms (p + 3 + s.rom.sfOffsetBits + 3 + (s.field (p + 1) 2 + 3)) r) ∧
      ∀ i, i < s.nqu → fac i = ((s.field (p + 3 + s.rom.sfOffsetBits + 3) (s.field (p + 1) 2 + 3) + (syms.take i).sum) %
        2 ^ (s.field (p + 1) 2 + 3) : Nat) + (s.field (p + 3) s.rom.sfOffsetBits : Int) -
          s.rom.weight (s.field (p + 3 + s.rom.sfOffsetBits) 3) i := by
    by_cases h0 : s.nqu = 0
    · rw [if_pos h0] at hcodes
      exact ⟨[], fun _ => ⟨rfl, hcodes⟩, fun hpos => by omega, fun i hi => by omega⟩
    · rw [if_neg h0] at hcodes
      obtain ⟨hfirst, syms, hlen, hrun, hfac⟩ := hcodes
      exact ⟨syms, fun h => absurd h h0, fun _ => ⟨hfirst, hlen, hrun⟩, hfac⟩
  obtain ⟨syms, hzero, hpos, hfac⟩ := hcoded
  obtain ⟨raw, hraw, hlen, hval⟩ := sfCodedValues_readable (by omega) hl hzero hpos
  refine ⟨_, (schemeA_eq hfit cfg).trans (congrArg (· >>= _) hraw), rfl, ?_, fun i hi => ?_⟩
  · obtain h0 | hp := Nat.eq_zero_or_pos s.nqu
    · exact (hzero h0).2.le.trans hfit
    · obtain ⟨hfirst, -, hrun⟩ := hpos hp
      exact codesAt_le (by omega) hrun hfirst
  · have hlt := Nat.mod_lt (s.field (p + 3 + s.rom.sfOffsetBits + 3) (s.field (p + 1) 2 + 3) + (syms.take i).sum)
      (Nat.two_pow_pos (s.field (p + 1) 2 + 3))
    have h64 : 2 ^ (s.field (p + 1) 2 + 3) ≤ 2 ^ 6 := Nat.pow_le_pow_right (by decide) (by omega)
    rw [hfac i hi]
    exact factorUnits_corrected (hlen ▸ hi) (hi.trans_le hn) (hval i hi) (hlt.trans_le h64) (sfOffset_lt s _)

theorem decoded_schemeB (hn : s.nqu ≤ 34) (hmode : s.field p 1 = 1) (h : factorsAt s 0 s.nqu ref p fac r) (cfg : SfCfg) :
    ∃ res, s.schemeB cfg (p + 1) = .ok res ∧ Decoded s fac r res := by
  have hsel := field_lt s (p + 1) 2
  simp only [factorsAt, if_neg (show ¬s.field p 1 = 0 by omega), if_true] at h
  by_cases hbl : 4 < s.field (p + 1) 2 + s.rom.sfBBase
  · rw [if_pos hbl] at h
    obtain ⟨rfl, hfit, hfac⟩ := h
    refine ⟨_, schemeB_raw_ok cfg hbl hfit, rfl, hfit, fun i hi => ?_⟩
    have hlt := field_lt s (p + 3 + 5 * i) 5
    rw [hfac i hi]
    exact factorUnits_raw hi (hi.trans_le hn) (by omega)
  · rw [if_neg hbl] at h
    obtain ⟨rfl, hfit, hfac⟩ := h
    refine ⟨_, schemeB_corrected_ok cfg hbl rfl rfl hfit, rfl, hfit, fun i hi => ?_⟩
    have hlt := field_lt s (p + 3 + s.rom.sfOffsetBits + 3 + (s.field (p + 1) 2 + s.rom.sfBBase) * i)
      (s.field (p + 1) 2 + s.rom.sfBBase)
    have h64 : 2 ^ (s.field (p + 1) 2 + s.rom.sfBBase) ≤ 2 ^ 6 := Nat.pow_le_pow_right (by decide) (by omega)
    rw [hfac i hi]
    refine (factorUnits_corrected (by rw [length_map_range]; exact hi) (hi.trans_le hn) (getD_map_range hi)
      (hlt.trans_le h64) (sfOffset_lt s _)).trans ?_
    exact add_sub_right_comm _ _ _

theorem signed_ge (n v : Nat) : -2 ^ n ≤ signed n v := by
  have : (0 : Int) < 2 ^ n := by positivity
  unfold signed
  split_ifs <;> omega

/-- Scheme C, where the sums stay far from the bounds of an int32 cell. -/
theorem decoded_schemeC (hn : s.nqu ≤ 34) (hl : lutsHold s) (hmode : s.field p 1 = 1) (hlne : l ≠ 0)
    (h : factorsAt s l s.nqu ref p fac r) (href : ∀ i, i < s.nqu → Units.int s.ch0.sf i = ref i ∧ -255 ≤ ref i)
    (hhigh : ∀ i, i < s.nqu → fac i ≤ 31) (cfg : SfCfg) :
    ∃ res, s.schemeC cfg (p + 1) = .ok res ∧ Decoded s fac r res := by
  have hsel := field_lt s (p + 1) 2
  simp only [factorsAt, if_neg (show ¬s.field p 1 = 0 by omega), if_neg hlne] at h
  obtain ⟨hfit, syms, hlen, hcodes, hfac⟩ := h
  refine ⟨_, schemeC_ok cfg hl hfit hlen hcodes, rfl, codesAt_le (by omega) hcodes hfit, fun i hi => ?_⟩
  obtain ⟨hsf, hlow⟩ := href i hi
  have hmeans : symbolMeans (7 + (s.field (p + 1) 2 + 2)) (syms.getD i 0) =
      signed (s.field (p + 1) 2 + 2) (syms.getD i 0) := by
    rw [symbolMeans, if_pos (Nat.le_add_right _ _), Nat.add_sub_cancel_left]
  have hsigned := signed_ge (s.field (p + 1) 2 + 2) (syms.getD i 0)
  have hpow : (2 : Int) ^ (s.field (p + 1) 2 + 2) ≤ 2 ^ 5 := pow_le_pow_right₀ (by decide) (by omega)
  have hle := hhigh i hi
  have hsum := hfac i hi
  have hget : ((List.range s.nqu).map (fun j => Units.int s.ch0.sf (0 + j) +
      symbolMeans (7 + (s.field (p + 1) 2 + 2)) (syms.getD j 0))).getD i 0 = fac i := by
    rw [List.getD_eq_getElem _ 0 (by simpa using hi), List.getElem_map, List.getElem_range, Nat.zero_add, hmeans, hsf, hsum]
  rw [Units.int, factorUnits_at _ (hi.trans_le hn), hget]
  exact toInt_ofInt (by omega) (by omega)

/-! ### The rule (R170) -/

/-- What the channel with local index `l` needs of channel 0 (R174). -/
def refHolds (s : State) (l : Nat) (ref : Nat → Int) : Prop :=
  l ≠ 0 → ∀ i, i < s.nqu → Units.int s.ch0.sf i = ref i ∧ -255 ≤ ref i

theorem field_one (s : State) (p : Nat) : s.field p 1 = 0 ∨ s.field p 1 = 1 := by
  have := field_lt s p 1
  omega

theorem one_le_of_factorsAt (h : factorsAt s l n ref p fac r) (hr : r ≤ s.limitBits) : p + 1 ≤ s.limitBits := by
  unfold factorsAt at h
  dsimp only at h
  split_ifs at h <;> omega

theorem sfDecodeRule_readable (hn : s.nqu ≤ 34) (hl : lutsHold s) (h : factorsAt s l s.nqu ref (cursor s) fac r)
    (href : refHolds s l ref) (hhigh : ∀ i, i < s.nqu → fac i ≤ 31) :
    ∃ res, sfDecodeRule c (.ofNat l) s = .ok (storeFactors c s res) ∧ Decoded s fac r res := by
  have hscheme : ∃ res, s.sfScheme (s.field (cursor s) 1) (.ofNat l) (modeCfg c s) (cursor s + 1) = .ok res ∧
      Decoded s fac r res := by
    obtain hmode | hmode := field_one s (cursor s)
    · rw [sfScheme_of_A hmode]
      exact decoded_schemeA hn hl hmode h _
    · cases l with
      | zero =>
        rw [show LocalCh.ofNat 0 = .l0 from rfl, sfScheme_of_B hmode]
        exact decoded_schemeB hn hmode h _
      | succ l =>
        rw [show LocalCh.ofNat (l + 1) = .l1 from rfl, sfScheme_of_C hmode]
        exact decoded_schemeC hn hl hmode (Nat.succ_ne_zero l) h (href (Nat.succ_ne_zero l)) hhigh _
  obtain ⟨res, hres, hdec⟩ := hscheme
  exact ⟨res, sfDecodeRule_ok hn (one_le_of_factorsAt h hdec.below) hres, hdec⟩

/-- Factors that need no other channel's are not below the largest weight. -/
theorem factorsAt_ge (h : factorsAt s 0 n ref p fac r) : ∀ i, i < n → -255 ≤ fac i := by
  intro i hi
  have hw (wt : Nat) : s.rom.weight wt i ≤ 255 := weight_le s.cfg wt i
  unfold factorsAt at h
  dsimp only at h
  split_ifs at h with hmode h0 hbl
  · omega
  · obtain ⟨-, -, _, -, -, hfac⟩ := h
    have := hw (s.field (p + 3 + s.rom.sfOffsetBits) 3)
    rw [hfac i hi]
    omega
  · rw [h.2.2 i hi]
    omega
  · have := hw (s.field (p + 3 + s.rom.sfOffsetBits) 3)
    rw [h.2.2 i hi]
    omega
  · exact absurd rfl hbl

end Sys2Proof.Proofs.ReadableFactors
end

section
/-! A readable channel of a frame (R88, R89, R254): the eight rules of `ChannelBody`, each on its own slot. -/

namespace Sys2Proof.Proofs.ReadableChannel

open Sys2Proof.Machine Sys2Proof.Claims Sys2Proof.Proofs.FieldReads Sys2Proof.Proofs.Precision Sys2Proof.Proofs.UnitLoop
  Sys2Proof.Proofs.Spectrum Sys2Proof.Proofs.FineSpectrum Sys2Proof.Proofs.Dequantizer Sys2Proof.Proofs.Stream
  Sys2Proof.Proofs.ScaleFactors Sys2Proof.Proofs.ReadableFactors Sys2Proof.Proofs.Fields

variable {f : State} {c d : Chan} {x y : Channel} {l p q r : Nat} {grad ref fac : Nat → Int}

/-! ### A state that a channel's rules have led to -/

/-- `f` with channel slot `c` and the cursor replaced. -/
def onChannel (f : State) (c : Chan) (x : Channel) (p : Nat) : State := (f.setChan c x).setBrPos p

theorem setChan_onChannel (f : State) (c : Chan) (x y : Channel) (p : Nat) :
    (onChannel f c x p).setChan c y = onChannel f c y p := by cases c <;> rfl

theorem setBrPos_onChannel (f : State) (c : Chan) (x : Channel) (p q : Nat) :
    (onChannel f c x p).setBrPos q = onChannel f c x q := by cases c <;> rfl

theorem chan_onChannel (f : State) (c : Chan) (x : Channel) (p : Nat) : (onChannel f c x p).chan c = x := by
  cases c <;> rfl

theorem nqu_onChannel (f : State) (c : Chan) (x : Channel) (p : Nat) : (onChannel f c x p).nqu = f.nqu := by
  cases c <;> rfl

theorem gparam0_onChannel (f : State) (c : Chan) (x : Channel) (p : Nat) :
    (onChannel f c x p).gparam0 = f.gparam0 := by cases c <;> rfl

theorem gradient_onChannel (f : State) (c : Chan) (x : Channel) (p : Nat) :
    (onChannel f c x p).gradient = f.gradient := by cases c <;> rfl

theorem sameStream_onChannel (f : State) (c : Chan) (x : Channel) (p : Nat) : SameStream f (onChannel f c x p) := by
  cases c <;> exact ⟨rfl, rfl, rfl, rfl, rfl⟩

theorem cursor_onChannel (c : Chan) (x : Channel) (hp : p ≤ f.limitBits) : cursor (onChannel f c x p) = p := by
  cases c <;> exact toNat_ofNat_position hp

/-! ### The precisions (R154 to R157) -/

/-- The precision of unit `i` of a readable channel. -/
def channelPrec (f : State) (grad fac : Nat → Int) (i : Nat) : Int :=
  precisionFrom f.gparam0.gmode.toNat f.gparam0.gbnd.toNat
    (fac i + grad i + if f.gparam0.gmode.toNat = 0 then 0 else maskAt f.nqu fac i) i

/-- A mask depends on the factors below `n` only. -/
theorem maskAt_congr {n i : Nat} {g h : Nat → Int} (hi : i < n) (heq : ∀ j, j < n → g j = h j) :
    maskAt n g i = maskAt n h i := by
  have hnext : i + 1 < n → g (i + 1) = h (i + 1) := heq (i + 1)
  have hprev : g (i - 1) = h (i - 1) := heq (i - 1) (by omega)
  unfold maskAt
  rw [heq i hi, hprev]
  by_cases hn : i + 1 < n
  · rw [hnext hn]
  · simp only [hn, false_and, if_false]

theorem sum_lt_of_dividedSum {gmode : Nat} {sum : Int} (h : dividedSum gmode sum ≤ 30) : sum < 2 ^ 31 - 1 := by
  unfold dividedSum at h
  split_ifs at h <;> omega

/-- What the two precision arrays hold below NQU. -/
def holdsPrecisions (f : State) (grad fac : Nat → Int) (x : Channel) : Prop :=
  ∀ i, i < f.nqu → Units.int x.prec i = min (channelPrec f grad fac i) 15 ∧
    Units.int x.precf i = max (channelPrec f grad fac i - 15) 0

theorem channelPrec_ge (f : State) (grad fac : Nat → Int) (i : Nat) : 1 ≤ channelPrec f grad fac i := by
  rw [channelPrec, precisionFrom_eq]
  split_ifs <;> omega

theorem pmaskBuildRule_onChannel (hn : f.nqu ≤ 34) : pmaskBuildRule c (onChannel f c x p) =
    .ok (onChannel f c { x with pmask := pmaskOf x.sf f.nqu } p) := by
  have hnqu := nqu_onChannel f c x p
  rw [pmaskBuildRule_ok (by omega), chan_onChannel, setChan_onChannel, hnqu]

theorem precisionCalcRule_onChannel (hn : f.nqu ≤ 34) (hg : f.gparam0.gmode.toNat ≤ 3)
    (hsf : ∀ i, i < f.nqu → Units.int x.sf i = fac i) (hmask : x.pmask = pmaskOf x.sf f.nqu)
    (hgrad : ∀ i, i < f.nqu → Units.int f.gradient i = grad i) (hprec : ∀ i, i < f.nqu → channelPrec f grad fac i ≤ 30) :
    ∃ prec precf, precisionCalcRule c (onChannel f c x p) = .ok (onChannel f c { x with prec := prec, precf := precf } p) ∧
      holdsPrecisions f grad fac { x with prec := prec, precf := precf } := by
  have hnqu := nqu_onChannel f c x p
  have hgp := gparam0_onChannel f c x p
  refine ⟨Vector.ofFn (fun i => (fineSplit (onChannel f c x p) c i).1),
    Vector.ofFn (fun i => (fineSplit (onChannel f c x p) c i).2), ?_, fun i hi => ?_⟩
  · rw [precisionCalcRule_ok (by omega) (by rw [hgp]; exact hg), chan_onChannel, setChan_onChannel]
  have hmaski : Units.int x.pmask i = maskAt f.nqu fac i := by
    rw [hmask, pmaskOf_int _ hn (hi.trans_le hn)]
    exact maskAt_congr hi hsf
  have hsum : Claims.precisionSum (onChannel f c x p) c i =
      fac i + grad i + if f.gparam0.gmode.toNat = 0 then 0 else maskAt f.nqu fac i := by
    simp only [Claims.precisionSum, chan_onChannel, gparam0_onChannel, gradient_onChannel, hsf i hi, hgrad i hi, hmaski,
      gmode_zero_iff]
  have hof : Claims.precisionOf (onChannel f c x p) c i = channelPrec f grad fac i := by
    rw [Claims.precisionOf, hsum, hgp]
    rfl
  have hbound : Claims.precisionSum (onChannel f c x p) c i < 2 ^ 31 - 1 := by
    have hle := hprec i hi
    rw [channelPrec, precisionFrom_eq] at hle
    rw [hsum]
    refine sum_lt_of_dividedSum (gmode := f.gparam0.gmode.toNat) ?_
    split_ifs at hle ⊢ <;> omega
  have hwhole := wholePrecision_toInt (by rw [hgp]; exact hg) (by rw [hnqu]; exact hi) hbound
  rw [hof] at hwhole
  have hsplit := fineSplit_below (by rw [hnqu]; exact hi) hwhole (channelPrec_ge f grad fac i)
  rw [Units.int, Units.int, units_at_ofFn _ (hi.trans_le hn), units_at_ofFn _ (hi.trans_le hn)]
  exact hsplit

/-! ### The spectra (R191, R195) -/

/-- Bits of unit `i` in the coarse spectrum of a readable channel. -/
def channelCoarse (f : State) (grad fac : Nat → Int) (i : Nat) : Nat :=
  coarseBits (min (channelPrec f grad fac i) 15).toNat (f.rom.nsps i)

/-- Bits of unit `i` in its fine spectrum. -/
def channelFine (f : State) (grad fac : Nat → Int) (i : Nat) : Nat :=
  f.rom.nsps i * sampleWidth (channelPrec f grad fac i - 15).toNat

theorem bitsBefore_congr {g h : Nat → Nat} {k : Nat} (heq : ∀ i, i < k → g i = h i) : bitsBefore g k = bitsBefore h k := by
  unfold bitsBefore
  rw [List.map_congr_left fun i hi => heq i (List.mem_range.mp hi)]

theorem specDecodeRule_onChannel (hn : f.nqu ≤ 34) (hp : holdsPrecisions f grad fac x) (hr : r ≤ f.limitBits)
    (hval : ∀ i j, i < f.nqu → j < f.rom.nsps i → coarseValue f (min (channelPrec f grad fac i) 15).toNat (f.rom.nsps i)
      (r + bitsBefore (channelCoarse f grad fac) i) j ≠ none)
    (hfit : r + bitsBefore (channelCoarse f grad fac) f.nqu ≤ f.limitBits) :
    ∃ q, specDecodeRule c (onChannel f c x r) =
      .ok (onChannel f c { x with qspec := q } (r + bitsBefore (channelCoarse f grad fac) f.nqu)) := by
  have hs := sameStream_onChannel f c x r
  have hnqu := nqu_onChannel f c x r
  have hrom := rom_eq hs
  have hprec (i : Nat) (hi : i < f.nqu) : precOf (onChannel f c x r) c i = (min (channelPrec f grad fac i) 15).toNat := by
    rw [precOf, chan_onChannel, (hp i hi).1]
  have hstart {k : Nat} (hk : k ≤ f.nqu) :
      specStart (onChannel f c x r) c k = r + bitsBefore (channelCoarse f grad fac) k := by
    rw [specStart, cursor_onChannel c x hr]
    refine congrArg _ (bitsBefore_congr fun i hi => ?_)
    rw [specBits, hprec i (by omega), hrom]
    rfl
  have hdec : specDecodes (onChannel f c x r) c (onChannel f c x r).nqu := by
    intro i hi
    rw [hnqu] at hi
    have hge := channelPrec_ge f grad fac i
    refine ⟨?_, fun j hj => ?_⟩
    · rw [precInRange, chan_onChannel, (hp i hi).1]
      omega
    · rw [hrom] at hj
      rw [specValue, hprec i hi, hstart hi.le, hrom, coarseValue_eq hs]
      exact hval i j hi hj
  obtain ⟨q, hq, -⟩ := specDecodeRule_ok (by omega) hdec
    (.inr (by rw [hnqu, hstart le_rfl, limitBits_eq hs]; exact hfit))
  rw [hnqu, hstart le_rfl, chan_onChannel, setChan_onChannel, setBrPos_onChannel] at hq
  exact ⟨q, hq⟩

theorem specFineDecodeRule_onChannel (hn : f.nqu ≤ 34) (hp : holdsPrecisions f grad fac x) (hr : r ≤ f.limitBits)
    (hprec : ∀ i, i < f.nqu → channelPrec f grad fac i ≤ 30)
    (hfit : r + bitsBefore (channelFine f grad fac) f.nqu ≤ f.limitBits) :
    ∃ q, specFineDecodeRule c (onChannel f c x r) =
      .ok (onChannel f c { x with qspecf := q } (r + bitsBefore (channelFine f grad fac) f.nqu)) := by
  have hs := sameStream_onChannel f c x r
  have hnqu := nqu_onChannel f c x r
  have hstart : fineStart (onChannel f c x r) c f.nqu = r + bitsBefore (channelFine f grad fac) f.nqu := by
    rw [fineStart, cursor_onChannel c x hr]
    refine congrArg _ (bitsBefore_congr fun i hi => ?_)
    have hfine : (max (channelPrec f grad fac i - 15) 0).toNat = (channelPrec f grad fac i - 15).toNat := by omega
    rw [fineBits, fineOf, chan_onChannel, (hp i hi).2, rom_eq hs, hfine]
    rfl
  have hle (i : Nat) (hi : i < (onChannel f c x r).nqu) : Units.int ((onChannel f c x r).chan c).precf i ≤ 15 := by
    rw [hnqu] at hi
    have := hprec i hi
    rw [chan_onChannel, (hp i hi).2]
    omega
  obtain ⟨q, hq, -⟩ := specFineDecodeRule_ok (by omega) hle
    (.inr (by rw [hnqu, hstart, limitBits_eq hs]; exact hfit))
  rw [hnqu, hstart, chan_onChannel, setChan_onChannel, setBrPos_onChannel] at hq
  exact ⟨q, hq⟩

/-! ### The spectrum as numbers (R210, R212) -/

/-- Every line of no unit below `n` is +0.0. -/
def clearOutside (rom : Config) (n : Nat) (v : Lines) : Prop :=
  ∀ m, m < 256 → (∀ i, i < n → ¬inUnit rom i m) → Lines.at v m = 0

theorem dequantRule_onChannel (hn : f.nqu ≤ 34) (hp : holdsPrecisions f grad fac x) :
    ∃ v, dequantRule c (onChannel f c x p) = .ok (onChannel f c { x with spec := v } p) ∧ clearOutside f.rom f.nqu v := by
  have hnqu := nqu_onChannel f c x p
  have hrange (i : Nat) (hi : i < (onChannel f c x p).nqu) : precInRange (onChannel f c x p) c i := by
    rw [hnqu] at hi
    have := channelPrec_ge f grad fac i
    rw [precInRange, chan_onChannel, (hp i hi).1]
    omega
  obtain ⟨v, hv, -, hout⟩ := dequantRule_ok (by omega) hrange
  rw [chan_onChannel, setChan_onChannel] at hv
  rw [hnqu, rom_eq (sameStream_onChannel f c x p)] at hout
  exact ⟨v, hv, fun m _ hm => hout m hm⟩

theorem scaleRule_onChannel (hn : f.nqu ≤ 34) (hsf : ∀ i, i < f.nqu → Units.int x.sf i ≤ 31)
    (hclear : clearOutside f.rom f.nqu x.spec) :
    ∃ v, scaleRule c (onChannel f c x p) = .ok (onChannel f c { x with spec := v } p) ∧ clearOutside f.rom f.nqu v := by
  have hnqu := nqu_onChannel f c x p
  have hle (i : Nat) (hi : i < (onChannel f c x p).nqu) : Units.int ((onChannel f c x p).chan c).sf i ≤ 31 := by
    rw [hnqu] at hi
    rw [chan_onChannel]
    exact hsf i hi
  obtain ⟨v, hv, -, hout⟩ := scaleRule_ok (by omega) hle
  rw [chan_onChannel, setChan_onChannel] at hv
  rw [hnqu, rom_eq (sameStream_onChannel f c x p), chan_onChannel] at hout
  exact ⟨v, hv, fun m hm hnot => (hout m hnot).trans (hclear m hm hnot)⟩

theorem imdctWorkRule_onChannel (hb : sizeOk x.mbits.toNat = true) :
    ∃ pcm work, imdctWorkRule c (onChannel f c x p) = .ok (onChannel f c { x with pcm := pcm, workPrev := work } p) := by
  obtain ⟨r, hr⟩ : ∃ r, imdctOn c (onChannel f c x p) x.workPrev = .ok r :=
    ⟨_, imdctOn_ok (by rw [chan_onChannel]; exact hb)⟩
  refine ⟨r.1, r.2, ?_⟩
  rw [imdctWorkRule, chan_onChannel, hr, ok_bind, setChan_onChannel]
  rfl

/-! ### The whole channel -/

/-- A readable channel is decoded into its slot. -/
theorem channelBody_readable (hn : f.nqu ≤ 34) (hg : f.gparam0.gmode.toNat ≤ 3) (hl : lutsHold f)
    (hgrad : ∀ i, i < f.nqu → Units.int f.gradient i = grad i) (href : refHolds f l ref)
    (hb : sizeOk (f.chan c).mbits.toNat = true)
    (h : channelAt f l f.nqu f.gparam0.gmode.toNat f.gparam0.gbnd.toNat grad ref (cursor f) fac q) :
    ∃ y, channelBody c (.ofNat l) f = .ok (onChannel f c y q) ∧ y.mbits = (f.chan c).mbits ∧
      (∀ i, i < f.nqu → Units.int y.sf i = fac i) ∧ clearOutside f.rom f.nqu y.spec ∧ q ≤ f.limitBits := by
  obtain ⟨r, hfac, hbounds, hval, hq, hqlim⟩ := h
  have hsf31 (i : Nat) (hi : i < f.nqu) : fac i ≤ 31 := (hbounds i hi).1
  have hprec (i : Nat) (hi : i < f.nqu) : channelPrec f grad fac i ≤ 30 := (hbounds i hi).2
  change q = r + bitsBefore (channelCoarse f grad fac) f.nqu + bitsBefore (channelFine f grad fac) f.nqu at hq
  obtain ⟨res, h1, hdec⟩ := sfDecodeRule_readable (c := c) hn hl hfac href hsf31
  obtain ⟨hpos, hbelow, hsf⟩ := hdec
  have hstore : storeFactors c f res =
      onChannel f c { f.chan c with sf := factorUnits res.factors, sfcfg := res.cfg } r := by rw [← hpos]; rfl
  generalize factorUnits res.factors = sf at hsf hstore
  obtain ⟨prec, precf, h3, hholds⟩ := precisionCalcRule_onChannel (c := c) (p := r)
    (x := { f.chan c with sf := sf, sfcfg := res.cfg, pmask := pmaskOf sf f.nqu }) hn hg hsf rfl hgrad hprec
  obtain ⟨qs, h4⟩ := specDecodeRule_onChannel (c := c) hn hholds hbelow hval (by omega)
  obtain ⟨qf, h5⟩ := specFineDecodeRule_onChannel (c := c) hn (x := { f.chan c with
    sf := sf, sfcfg := res.cfg, pmask := pmaskOf sf f.nqu, prec := prec, precf := precf, qspec := qs }) hholds
    (by omega) hprec (hq ▸ hqlim)
  rw [← hq] at h5
  obtain ⟨v, h6, hv⟩ := dequantRule_onChannel (c := c) (p := q) hn (x := { f.chan c with
    sf := sf, sfcfg := res.cfg, pmask := pmaskOf sf f.nqu, prec := prec, precf := precf, qspec := qs, qspecf := qf }) hholds
  obtain ⟨w, h7, hw⟩ := scaleRule_onChannel (c := c) (p := q) hn (x := { f.chan c with
    sf := sf, sfcfg := res.cfg, pmask := pmaskOf sf f.nqu, prec := prec, precf := precf, qspec := qs, qspecf := qf
    spec := v }) (fun i hi => (hsf i hi).le.trans (hsf31 i hi)) hv
  obtain ⟨pcm, work, h8⟩ := imdctWorkRule_onChannel (f := f) (c := c) (p := q) (x := { f.chan c with
    sf := sf, sfcfg := res.cfg, pmask := pmaskOf sf f.nqu, prec := prec, precf := precf, qspec := qs, qspecf := qf
    spec := w }) hb
  refine ⟨{ f.chan c with
    sf := sf, sfcfg := res.cfg, pmask := pmaskOf sf f.nqu, prec := prec, precf := precf, qspec := qs, qspecf := qf
    spec := w, pcm := pcm, workPrev := work }, ?_, rfl, hsf, hw, hqlim⟩
  rw [channelBody, h1, ok_bind, hstore, pmaskBuildRule_onChannel hn, ok_bind, h3, ok_bind, h4, ok_bind, h5, ok_bind, h6,
    ok_bind, h7, ok_bind, h8]

end Sys2Proof.Proofs.ReadableChannel
end

section
/-! A readable frame (R87, R253 to R258): its sub-blocks are decoded into their slots, and it completes or reports its
end. -/

namespace Sys2Proof.Proofs.ReadableFrame

open Sys2Proof.Machine Sys2Proof.Claims Sys2Proof.Proofs.Commands Sys2Proof.Proofs.Parameters Sys2Proof.Proofs.Stream
  Sys2Proof.Proofs.Precision Sys2Proof.Proofs.Fields Sys2Proof.Proofs.ReadableFactors Sys2Proof.Proofs.ReadableChannel
  Sys2Proof.Proofs.Sequence Sys2Proof.Proofs.Frame

variable {f g u s : State} {c d : Chan} {lo mid hi k l b chb p q r nqu : Nat} {n n' : Nat → Nat} {ns : List Nat}
  {grad ref : Nat → Int}

/-! ### What decoded slots leave -/

/-- From `f` to `g` the slots `lo` to `hi` − 1 have been decoded, slot `m` with `n m` units, and the cursor led to `q`. -/
structure Decodes (f g : State) (lo hi : Nat) (n : Nat → Nat) (q : Nat) : Prop where
  stream : SameStream f g
  cursor : cursor g = q
  below : q ≤ f.limitBits
  mbits : ∀ d, (g.chan d).mbits = (f.chan d).mbits
  clear : ∀ m, lo ≤ m → m < hi → clearOutside f.rom (n m) (g.chan (slot m)).spec
  other : ∀ m, m < 2 → m < lo ∨ hi ≤ m → g.chan (slot m) = f.chan (slot m)

theorem Decodes.refl (hq : Claims.cursor f ≤ f.limitBits) : Decodes f f lo lo n (Claims.cursor f) where
  stream := ⟨rfl, rfl, rfl, rfl, rfl⟩
  cursor := rfl
  below := hq
  mbits _ := rfl
  clear _ hlow hhigh := absurd hhigh (Nat.not_lt.mpr hlow)
  other _ _ _ := rfl

theorem Decodes.trans (h : Decodes f g lo mid n r) (k : Decodes g u mid hi n q) (h1 : lo ≤ mid) (h2 : mid ≤ hi) (h3 : hi ≤ 2) :
    Decodes f u lo hi n q where
  stream := ⟨k.stream.cfg.trans h.stream.cfg, k.stream.hlut.trans h.stream.hlut, k.stream.inBuf.trans h.stream.inBuf,
    k.stream.inLen.trans h.stream.inLen, k.stream.ramEpoch.trans h.stream.ramEpoch⟩
  cursor := k.cursor
  below := limitBits_eq h.stream ▸ k.below
  mbits d := (k.mbits d).trans (h.mbits d)
  clear m hlow hhigh := by
    by_cases hm : m < mid
    · rw [k.other m (by omega) (.inl hm)]
      exact h.clear m hlow hm
    · rw [← rom_eq h.stream]
      exact k.clear m (by omega) hhigh
  other m hm hout := (k.other m hm (by omega)).trans (h.other m hm (by omega))

theorem Decodes.congr (h : Decodes f g lo hi n q) (hn : ∀ m, lo ≤ m → m < hi → n' m = n m) : Decodes f g lo hi n' q :=
  { h with clear := fun m hlow hhigh => hn m hlow hhigh ▸ h.clear m hlow hhigh }

/-! ### The channels of a sub-block (R257) -/

theorem slot_ne {m m' : Nat} (hm : m < 2) (hm' : m' < 2) (hne : m ≠ m') : slot m ≠ slot m' := by
  obtain ⟨rfl, h1⟩ | ⟨h1, rfl⟩ : m = 0 ∧ m' ≠ 0 ∨ m ≠ 0 ∧ m' = 0 := by omega
  · rw [slot, slot, if_pos rfl, if_neg h1]
    decide
  · rw [slot, slot, if_neg h1, if_pos rfl]
    decide

theorem chan_setBrPos (s : State) (p : Nat) (d : Chan) : (s.setBrPos p).chan d = s.chan d := by cases d <;> rfl

theorem chan_onChannel_ne {x : Channel} (h : d ≠ c) : (onChannel f c x p).chan d = f.chan d := by
  rw [onChannel, chan_setBrPos, setChan_chan_other _ _ _ _ h]

theorem mbits_onChannel {y : Channel} (h : y.mbits = (f.chan c).mbits) (d : Chan) :
    ((onChannel f c y p).chan d).mbits = (f.chan d).mbits := by
  by_cases hd : d = c
  · rw [hd, chan_onChannel, h]
  · rw [chan_onChannel_ne hd]

/-- One decoded slot. -/
theorem decodes_onChannel {m : Nat} {y : Channel} (hm : m < 2) (hbits : y.mbits = (f.chan (slot m)).mbits)
    (hclear : clearOutside f.rom f.nqu y.spec) (hq : q ≤ f.limitBits) :
    Decodes f (onChannel f (slot m) y q) m (m + 1) (fun _ => f.nqu) q where
  stream := sameStream_onChannel f _ y q
  cursor := cursor_onChannel _ y hq
  below := hq
  mbits := mbits_onChannel hbits
  clear m' hlow hhigh := by
    obtain rfl : m' = m := by omega
    rw [chan_onChannel]
    exact hclear
  other m' hm' hout := chan_onChannel_ne (slot_ne hm' hm (by omega))

/-- The factors of channel 0 are those that scheme C of the next channel needs. -/
theorem refHolds_next {y : Channel} {fac : Nat → Int} (hl : l = 0) (hsf : ∀ i, i < f.nqu → Units.int y.sf i = fac i)
    (h : channelAt f l f.nqu f.gparam0.gmode.toNat f.gparam0.gbnd.toNat grad ref p fac r) :
    refHolds (onChannel f (slot 0) y r) (l + 1) fac := by
  subst hl
  obtain ⟨_, hfac, -⟩ := h
  intro _ i hi
  rw [nqu_onChannel] at hi
  exact ⟨hsf i hi, factorsAt_ge hfac i hi⟩

theorem channelLoop_readable (hslots : b * chb + l + k ≤ 2) (hn : f.nqu ≤ 34) (hg : f.gparam0.gmode.toNat ≤ 3)
    (hl : lutsHold f) (hgrad : ∀ i, i < f.nqu → Units.int f.gradient i = grad i) (href : 0 < k → refHolds f l ref)
    (hb : ∀ d, sizeOk (f.chan d).mbits.toNat = true) (hbelow : cursor f ≤ f.limitBits)
    (h : channelsAt f f.nqu f.gparam0.gmode.toNat f.gparam0.gbnd.toNat grad k l ref (cursor f) q) :
    ∃ g, channelLoop chb b k l f = .ok g ∧ Decodes f g (b * chb + l) (b * chb + l + k) (fun _ => f.nqu) q := by
  induction k generalizing f l ref with
  | zero =>
    cases h
    exact ⟨f, rfl, Decodes.refl hbelow⟩
  | succ k ih =>
    obtain ⟨fac, r, hchannel, hrest⟩ := h
    obtain ⟨y, hbody, hbits, hsf, hclear, hr⟩ :=
      channelBody_readable (c := slot (b * chb + l)) hn hg hl hgrad (href (Nat.succ_pos k)) (hb _) hchannel
    have hstep := decodes_onChannel (by omega) hbits hclear hr
    have hs := sameStream_onChannel f (slot (b * chb + l)) y r
    have hnqu := nqu_onChannel f (slot (b * chb + l)) y r
    have hgp := gparam0_onChannel f (slot (b * chb + l)) y r
    have hgr := gradient_onChannel f (slot (b * chb + l)) y r
    obtain ⟨g, hloop, hdec⟩ := ih (f := onChannel f (slot (b * chb + l)) y r) (l := l + 1) (ref := fac) (by omega)
      (by omega) (by rw [hgp]; exact hg) ((lutsHold_iff hs).mpr hl) (by rw [hnqu, hgr]; exact hgrad)
      (fun hk => by
        have hzero : b * chb + l = 0 := by omega
        rw [hzero]
        exact refHolds_next (by omega) hsf hchannel)
      (fun d => by rw [mbits_onChannel hbits]; exact hb d) (by rw [hstep.cursor, limitBits_eq hs]; exact hr)
      (by rw [channelsAt_eq hs, hnqu, hgp, hstep.cursor]; exact hrest)
    refine ⟨g, ?_, ?_⟩
    · rw [channelLoop, PcmOut.ofNat_eq_slot, hbody, ok_bind, hloop]
    · rw [hnqu] at hdec
      have hsum : b * chb + l + (k + 1) = b * chb + (l + 1) + k := by ring
      rw [hsum]
      exact hstep.trans hdec (by omega) (by omega) (by omega)

/-! ### The fields of a sub-block (R87, R247, R248) -/

theorem gradientEnd_eq (h : SameStream f g) : gradientEnd g = gradientEnd f := by
  unfold gradientEnd
  rw [rom_eq h, field_eq h]

theorem gradientRead_eq (h : SameStream f g) : gradientRead g = gradientRead f := by
  unfold gradientRead
  rw [rom_eq h, field_eq h]

/-- The gradient fields of a readable sub-block at `p`, the cursor after its band fields. -/
theorem parseGradientRule_readable (hc : cursor u = p + u.rom.bandBits + u.rom.bandFlagBits)
    (hlim : gradientEnd u p ≤ u.limitBits) :
    ∃ g0 g1, parseGradientRule u = .ok { u with gparam0 := g0, gparam1 := g1, brPos := Word.ofNat (gradientEnd u p) } ∧
      g0.gmode.toNat = u.field (cursor u) 2 ∧
      g0.gbnd.toNat = u.field (gradientEnd u p - u.rom.gbndBits) u.rom.gbndBits ∧
      gradientRead u p = (g0.gsu.toNat, g0.geu.toNat, g1.gsv.toNat, g1.gev.toNat) := by
  have hbounds := romBounds u
  have hend : (BitVec.ofNat 8 u.rom.gradM1EndUnit).toNat = u.rom.gradM1EndUnit :=
    (BitVec.toNat_ofNat _ _).trans (Nat.mod_eq_of_lt hbounds.endUnit)
  obtain ⟨fields, hfields, hstop, hread⟩ : ∃ fields, u.gradientFields (u.field (cursor u) 2) (cursor u + 2) = .ok fields ∧
      gradientEnd u p = fields.pos + u.rom.gbndBits ∧
      gradientRead u p = ((BitVec.ofNat 8 fields.gsu).toNat, (BitVec.ofNat 8 fields.geu).toNat,
        (BitVec.ofNat 8 fields.gsv).toNat, (BitVec.ofNat 8 fields.gev).toNat) := by
    simp only [gradientEnd, gradientRead, ← hc] at hlim ⊢
    by_cases hmode : u.field (cursor u) 2 = 0
    · rw [if_pos hmode] at hlim ⊢
      rw [if_pos hmode, hmode]
      refine ⟨_, gradientFields_direct rfl rfl (by omega), by ring, ?_⟩
      rw [toNat_ofNat_field u _ hbounds.gsu0, toNat_ofNat_field_add u _ hbounds.geu0Fits, toNat_ofNat_field u _ hbounds.gsv,
        toNat_ofNat_field u _ hbounds.gev]
    · rw [if_neg hmode] at hlim ⊢
      rw [if_neg hmode]
      refine ⟨_, gradientFields_fixedEnd hmode rfl rfl (by omega), by ring, ?_⟩
      rw [toNat_ofNat_field u _ hbounds.gsu1, hend, toNat_ofNat_field u _ hbounds.gsv]
      rfl
  have hmode2 : cursor u + 2 ≤ u.limitBits := by
    rw [gradientEnd, ← hc] at hlim
    omega
  have hfit : fields.pos + u.rom.gbndBits ≤ u.limitBits := by rw [← hstop]; exact hlim
  have hrule := parseGradientRule_ok hmode2 hfields hfit
  rw [← hstop] at hrule
  refine ⟨_, _, hrule, toNat_ofNat_field u _ (by decide), ?_, hread⟩
  rw [hstop, Nat.add_sub_cancel]
  exact toNat_ofNat_field u _ hbounds.gbnd

/-- The state that the three field commands of a readable sub-block lead to. -/
theorem fields_readable (hlim : gradientEnd f (cursor f) ≤ f.limitBits)
    (hnqu : f.rom.nquRom[f.field (cursor f) f.rom.bandBits + f.rom.bandOffset]? = some nqu)
    (hfits : gradientFits f.rom (gradientRead f (cursor f))) :
    ∃ geom g0 g1 gr, (do
        let s ← parseBandRule f
        let s ← parseGradientRule s
        gradientBuildRule s) = .ok { f with
          geom := geom, gparam0 := g0, gparam1 := g1, gradient := gr, brPos := Word.ofNat (gradientEnd f (cursor f)) } ∧
      geom.nqu.toNat = nqu ∧
      g0.gmode.toNat = f.field (cursor f + f.rom.bandBits + f.rom.bandFlagBits) 2 ∧
      g0.gbnd.toNat = f.field (gradientEnd f (cursor f) - f.rom.gbndBits) f.rom.gbndBits ∧
      ∀ i, i < 34 → Units.int gr i = gradientAt f.rom (gradientRead f (cursor f)) i := by
  have hbounds := romBounds f
  have hstop : cursor f + f.rom.bandBits + f.rom.bandFlagBits ≤ f.limitBits := by
    rw [gradientEnd] at hlim
    omega
  have hband := parseBandRule_ok (s := f) rfl ⟨hbounds.band, .inr (by omega)⟩ ⟨hbounds.bandFlag, .inr hstop⟩ hnqu
  obtain ⟨u, hu⟩ : ∃ u : State, u = { f with
      geom := { f.geom with
        nbands := BitVec.ofNat 8 (f.field (cursor f) f.rom.bandBits + f.rom.bandOffset), nqu := BitVec.ofNat 8 nqu }
      brPos := Word.ofNat (cursor f + f.rom.bandBits + f.rom.bandFlagBits) } := ⟨_, rfl⟩
  have hs : SameStream f u := by rw [hu]; exact ⟨rfl, rfl, rfl, rfl, rfl⟩
  have hcu : cursor u = cursor f + f.rom.bandBits + f.rom.bandFlagBits := by
    rw [hu]
    exact toNat_ofNat_position hstop
  obtain ⟨g0, g1, hgradient, hmode, hbnd, hread⟩ := parseGradientRule_readable (u := u) (p := cursor f)
    (by rw [hcu, rom_eq hs]) (by rw [gradientEnd_eq hs, limitBits_eq hs]; exact hlim)
  rw [gradientEnd_eq hs] at hgradient hbnd
  rw [gradientRead_eq hs] at hread
  rw [field_eq hs, rom_eq hs] at hbnd
  rw [field_eq hs, hcu] at hmode
  rw [hread] at hfits ⊢
  obtain ⟨gr, hbuild, hgr⟩ := gradientBuildRule_ok (s := { u with
    gparam0 := g0, gparam1 := g1, brPos := Word.ofNat (gradientEnd f (cursor f)) }) rfl rfl rfl rfl
    (by rw [show State.rom _ = u.rom from rfl, rom_eq hs]; exact hfits)
  rw [show State.rom _ = u.rom from rfl, rom_eq hs] at hgr
  refine ⟨u.geom, g0, g1, gr, ?_, ?_, hmode, hbnd, hgr⟩
  · rw [hband, ok_bind, ← hu, hgradient, ok_bind, hbuild, hu]
  · rw [hu]
    exact (BitVec.toNat_ofNat _ _).trans (Nat.mod_eq_of_lt (by have := (nqu_bounds hnqu).2; omega))

/-! ### Sub-blocks (R255, R257) -/

/-- The alignment that ends a sub-block. -/
theorem Decodes.align (h : Decodes f g lo hi n r) :
    Decodes f (g.setBrPos (alignUp 8 r)) lo hi n (alignUp 8 r) where
  stream := ⟨h.stream.cfg, h.stream.hlut, h.stream.inBuf, h.stream.inLen, h.stream.ramEpoch⟩
  cursor := toNat_ofNat_position ((alignUp_advances f r).2 h.below)
  below := (alignUp_advances f r).2 h.below
  mbits d := by rw [chan_setBrPos, h.mbits]
  clear m hlow hhigh := by
    rw [chan_setBrPos]
    exact h.clear m hlow hhigh
  other m hm hout := by rw [chan_setBrPos, h.other m hm hout]

theorem subBlock_readable (hslots : b * chb + chb ≤ 2) (hl : lutsHold f) (hb : ∀ d, sizeOk (f.chan d).mbits.toNat = true)
    (h : blocksAt f chb (nqu :: ns) (cursor f) q) :
    ∃ g r, subBlock chb b f = .ok g ∧ Decodes f g (b * chb) (b * chb + chb) (fun _ => nqu) r ∧ blocksAt f chb ns r q := by
  obtain ⟨hlim, hnqu, hfits, r, hchannels, hrest⟩ := h
  obtain ⟨geom, g0, g1, gr, hfields, hgeom, hmode, hbnd, hgr⟩ := fields_readable hlim hnqu hfits
  obtain ⟨u, hu⟩ : ∃ u : State, u = { f with
    geom := geom, gparam0 := g0, gparam1 := g1, gradient := gr, brPos := Word.ofNat (gradientEnd f (cursor f)) } := ⟨_, rfl⟩
  have hs : SameStream f u := by rw [hu]; exact ⟨rfl, rfl, rfl, rfl, rfl⟩
  have hnu : u.nqu = nqu := by rw [hu]; exact hgeom
  have hcu : cursor u = gradientEnd f (cursor f) := by rw [hu]; exact toNat_ofNat_position hlim
  have hgmode : u.gparam0.gmode.toNat = f.field (cursor f + f.rom.bandBits + f.rom.bandFlagBits) 2 := by rw [hu]; exact hmode
  have hgbnd : u.gparam0.gbnd.toNat = f.field (gradientEnd f (cursor f) - f.rom.gbndBits) f.rom.gbndBits := by
    rw [hu]
    exact hbnd
  have hgradient : u.gradient = gr := by rw [hu]
  have hchan (d : Chan) : u.chan d = f.chan d := by rw [hu]; cases d <;> rfl
  have hle := (nqu_bounds hnqu).2
  have hfield := field_lt f (cursor f + f.rom.bandBits + f.rom.bandFlagBits) 2
  obtain ⟨g, hloop, hdec⟩ := channelLoop_readable (f := u) (b := b) (l := 0) (k := chb) (q := r) (ref := fun _ => 0)
    (grad := gradientAt f.rom (gradientRead f (cursor f))) (by omega) (by omega) (by rw [hgmode]; omega)
    ((lutsHold_iff hs).mpr hl) (fun i hi => hgradient ▸ hgr i (by omega)) (fun _ h => absurd rfl h)
    (fun d => by rw [hchan]; exact hb d) (by rw [hcu, limitBits_eq hs]; exact hlim)
    (by rw [channelsAt_eq hs, hnu, hgmode, hgbnd, hcu]; exact hchannels)
  rw [hnu, Nat.add_zero] at hdec
  have hfu : Decodes f u (b * chb) (b * chb) (fun _ => nqu) (gradientEnd f (cursor f)) :=
    ⟨hs, hcu, hlim, fun d => by rw [hchan], fun m h1 h2 => by omega, fun m _ _ => hchan _⟩
  refine ⟨g.setBrPos (alignUp 8 r), alignUp 8 r, ?_,
    (hfu.trans hdec le_rfl (Nat.le_add_right _ _) hslots).align, hrest⟩
  have hfields' : (parseBandRule f >>= fun s => parseGradientRule s >>= gradientBuildRule) = .ok u := hu ▸ hfields
  have hblock : subBlock chb b f = (parseBandRule f >>= fun s => parseGradientRule s >>= gradientBuildRule) >>= fun s =>
      channelLoop chb b chb 0 s >>= fun s => alignPos Config.blockAlignBits s.brPos.toNat >>= fun p => .ok (s.setBrPos p) := by
    simp only [subBlock, bind_assoc]
    rfl
  rw [hblock, hfields', ok_bind, hloop, ok_bind, show g.brPos.toNat = r from hdec.cursor]
  exact congrArg (· >>= _) (alignPos_ok (m := 8) (by decide))

/-- How many units the sub-blocks from `b` on give slot `m`. -/
def slotUnits (chb b : Nat) (ns : List Nat) (m : Nat) : Nat := ns.getD (m / chb - b) 0

theorem subBlockLoop_readable (hslots : (b + ns.length) * chb ≤ 2) (hl : lutsHold f)
    (hb : ∀ d, sizeOk (f.chan d).mbits.toNat = true) (hbelow : cursor f ≤ f.limitBits)
    (h : blocksAt f chb ns (cursor f) q) :
    ∃ g, subBlockLoop chb ns.length b f = .ok g ∧
      Decodes f g (b * chb) ((b + ns.length) * chb) (slotUnits chb b ns) q := by
  induction ns generalizing f b with
  | nil =>
    cases h
    exact ⟨f, rfl, Decodes.refl hbelow⟩
  | cons nqu ns ih =>
    rw [List.length_cons] at hslots ⊢
    have hsplit : (b + (ns.length + 1)) * chb = (b + 1 + ns.length) * chb := by ring
    have hfirst : b * chb + chb = (b + 1) * chb := by ring
    have hmono : (b + 1) * chb ≤ (b + 1 + ns.length) * chb := Nat.mul_le_mul_right _ (Nat.le_add_right _ _)
    obtain ⟨u, r, hblock, hdec, hrest⟩ := subBlock_readable (b := b) (by omega) hl hb h
    have hs := hdec.stream
    obtain ⟨g, hloop, hdec'⟩ := ih (f := u) (b := b + 1) (by omega) ((lutsHold_iff hs).mpr hl)
      (fun d => by rw [hdec.mbits]; exact hb d) (by rw [hdec.cursor, limitBits_eq hs]; exact hdec.below)
      (by rw [blocksAt_eq hs, hdec.cursor]; exact hrest)
    refine ⟨g, ?_, ?_⟩
    · rw [subBlockLoop, hblock, ok_bind, hloop]
    · rw [hsplit]
      rw [hfirst] at hdec
      refine (hdec.congr fun m hlow hhigh => ?_).trans (hdec'.congr fun m hlow hhigh => ?_) (by omega) hmono (by omega)
      · rw [slotUnits, Nat.div_eq_of_lt_le hlow hhigh, Nat.sub_self, List.getD_cons_zero]
      · have hchb : 0 < chb := Nat.pos_of_ne_zero (by rintro rfl; omega)
        have hdiv : b + 1 ≤ m / chb := (Nat.le_div_iff_mul_le hchb).mpr hlow
        rw [slotUnits, slotUnits, show m / chb - b = m / chb - (b + 1) + 1 by omega, List.getD_cons_succ]

/-! ### The frame up to its end (R255, R256) -/

/-- The channels of a frame are its sub-blocks' (R245). -/
theorem blocks_mul_chb (cfg : ValidConfig) {ccid : Nat} {e : CcidEntry} (h : cfg.rom.ccid ccid = some e) :
    e.blocks * e.chb = e.nch := by
  have hwf := cfg.ok
  simp only [Config.wf, Config.headerOk, Bool.and_eq_true, List.all_eq_true] at hwf
  obtain ⟨⟨⟨⟨⟨hheader, -⟩, -⟩, -⟩, -⟩, -⟩ := hwf
  obtain ⟨⟨⟨⟨-, hccid⟩, -⟩, -⟩, -⟩ := hheader
  have hentry := hccid _ (mem_of_getD h)
  simp only [Bool.and_eq_true, beq_iff_eq] at hentry
  exact hentry.2

/-- What a readable frame has reached in `t` before its end is checked. -/
structure ReachesEnd (s : State) (e : CcidEntry) (fb : Nat) (ns : List Nat) (q : Nat) (stop : Int) (t : State) : Prop where
  rule : decodeFrameRule s = frameEnd (cursor s) t >>= fun u => pcmOutRule u >>= fun u => .ok (commit u)
  cursor : cursor t = q
  declared : (Claims.cursor s : Int) + 8 * t.frameBytes = stop
  cfg : t.cfg = s.cfg
  status : t.status = s.status
  ctrl : t.ctrl = s.ctrl
  outPtr : t.outPtr = s.outPtr
  nch : t.geom.nch.toNat = e.nch
  fbits : t.geom.fbits.toNat = fb
  clear : ∀ b l nqu, ns[b]? = some nqu → l < e.chb → clearOutside s.rom nqu (t.chan (slot (b * e.chb + l))).spec
  idle : e.nch = 1 → t.ch1.workPrev = s.ch1.prev

section
variable {p1 p2 p3 body fb : Nat} {e : CcidEntry} (hl : lutsHold s) (h1 : p1 = cursor s + 8) (h2 : p2 = p1 + s.rom.sridBits)
  (h3 : p3 = p2 + s.rom.ccidBits) (hbody : body = p3 + s.rom.flenBits + s.rom.fstatBits) (hlim : body ≤ s.limitBits)
  (hsync : s.field (cursor s) 8 = s.rom.syncWord) (hfb : s.rom.fbits (s.field p1 s.rom.sridBits) = some fb)
  (he : s.rom.ccid (s.field p2 s.rom.ccidBits) = some e) (hns : ns.length = e.blocks) (hblocks : blocksAt s e.chb ns body q)
include hl h1 h2 h3 hbody hlim hsync hfb he hns hblocks

theorem reachesEnd_readable {stop : Int}
    (hstop : stop = cursor s + 8 * (s.field p3 s.rom.flenBits + s.rom.flenOffset + s.rom.flenAdj)) :
    ∃ t, ReachesEnd s e fb ns q stop t := by
  have hbounds := romBounds s
  obtain ⟨hmapf, hmapc⟩ := header_maps s.cfg.ok
  have hfb4 : (BitVec.ofNat 4 fb).toNat = fb := by obtain rfl | rfl := hmapf _ _ hfb <;> rfl
  have hsize : sizeOk fb = true := by obtain rfl | rfl := hmapf _ _ hfb <;> rfl
  have hnch := hmapc _ _ he
  have hnch2 : (BitVec.ofNat 2 e.nch).toNat = e.nch := by obtain h | h := hnch <;> rw [h] <;> rfl
  have hslots : e.blocks * e.chb = e.nch := blocks_mul_chb s.cfg he
  have hheader := parseHeaderRule_ok h1 h2 h3 rfl hbody hlim hsync hfb he
  obtain ⟨f, hf⟩ : ∃ f, f = asFrame s ((setHeader (s.field p1 s.rom.sridBits) fb (s.field p2 s.rom.ccidBits)
    (s.field p3 s.rom.flenBits) (s.field (p3 + s.rom.flenBits) s.rom.fstatBits) e s).setBrPos body) := ⟨_, rfl⟩
  have hs : SameStream s f := by rw [hf]; exact ⟨rfl, rfl, rfl, rfl, rfl⟩
  have hcf : Claims.cursor f = body := by rw [hf]; exact toNat_ofNat_position hlim
  have hmbits (d : Chan) : (f.chan d).mbits = BitVec.ofNat 4 fb := by rw [hf]; cases d <;> rfl
  obtain ⟨t, hloop, hdec⟩ := subBlockLoop_readable (f := f) (b := 0) (ns := ns) (chb := e.chb) (q := q)
    (by rw [Nat.zero_add, hns, hslots]; omega) ((lutsHold_iff hs).mpr hl) (fun d => by rw [hmbits, hfb4]; exact hsize)
    (by rw [hcf, limitBits_eq hs]; exact hlim) (by rw [blocksAt_eq hs, hcf]; exact hblocks)
  have hk := bodyKept_subBlockLoop hloop
  rw [Nat.zero_mul, Nat.zero_add, hns, hslots] at hdec
  have hflen : f.flen.toNat = s.field p3 s.rom.flenBits + s.rom.flenOffset := by
    rw [hf]
    exact toNat_ofNat_field_add s _ hbounds.flenFits
  have hcfg : t.cfg = s.cfg := hk.kept.cfg.trans hs.cfg
  refine ⟨t, ?rule, hdec.cursor, ?declared, hcfg, hk.kept.status.trans (by rw [hf]; rfl), hk.kept.ctrl.trans (by rw [hf]; rfl),
    hk.outPtr.trans (by rw [hf]; rfl), ?nch, ?fbits, fun b l nqu hb hlt => ?clear, fun hone => ?idle⟩
  case rule =>
    have hshape : f.frameShape = e := by
      have hccid : f.hdr.ccid.toNat = s.field p2 s.rom.ccidBits := by
        rw [hf]
        exact toNat_ofNat_field s _ hbounds.ccid
      rw [State.frameShape, rom_eq hs, hccid, he]
      rfl
    unfold decodeFrameRule
    rw [parseHeaderRule_bytesConsumed, hheader]
    change subBlockLoop (snapshot _).frameShape.chb _ _ _ >>= _ = _
    rw [snapshot_header hheader, ← hf, hshape, ← hns, hloop, ok_bind]
    rfl
  case declared =>
    have hrom : t.rom = s.rom := congrArg ValidConfig.rom hcfg
    rw [State.frameBytes, hk.flen, hflen, hrom, hstop]
    push_cast
    rfl
  case nch =>
    rw [hk.nch, hf]
    exact hnch2
  case fbits =>
    rw [hk.fbits, hf]
    exact hfb4
  case clear =>
    obtain ⟨hlen, hget⟩ := List.getElem?_eq_some_iff.mp hb
    have hlast : b * e.chb + l < e.nch := by
      rw [← hslots, ← hns]
      calc b * e.chb + l < (b + 1) * e.chb := by rw [Nat.add_one_mul]; omega
        _ ≤ ns.length * e.chb := Nat.mul_le_mul_right _ hlen
    have hunits : slotUnits e.chb 0 ns (b * e.chb + l) = nqu := by
      have hdiv : (b * e.chb + l) / e.chb = b := by
        rw [Nat.add_comm, Nat.add_mul_div_right _ _ (by omega), Nat.div_eq_of_lt hlt, Nat.zero_add]
      rw [slotUnits, hdiv, Nat.sub_zero, List.getD_eq_getElem _ _ hlen, hget]
    have hclear := hdec.clear (b * e.chb + l) (Nat.zero_le _) hlast
    rwa [hunits, rom_eq hs] at hclear
  case idle =>
    have hother : t.ch1 = f.ch1 := hdec.other 1 (by decide) (.inr hone.le)
    rw [hother, hf]
    rfl

end

/-! ### The end of the frame (R252, R258) -/

section
variable {e : CcidEntry} {fb room : Nat} {stop : Int} {t : State} (h : ReachesEnd s e fb ns q stop t)
include h

/-- The state in which `PCM_OUT` runs. -/
theorem ReachesEnd.frameEnd_ok (hq : q ≤ stop) :
    frameEnd (Claims.cursor s) t = .ok { t with brPos := Word.ofInt stop } := by
  have hpos : t.brPos.toNat = q := h.cursor
  unfold frameEnd
  rw [h.declared]
  exact if_neg (by omega)

theorem ReachesEnd.overrun (hq : stop < q) : decodeFrameRule s = .error (raiseAt .frameOverrun q) := by
  have hend : frameEnd (Claims.cursor s) t = .error (raiseAt .frameOverrun q) := by
    have hpos : t.brPos.toNat = q := h.cursor
    unfold frameEnd State.raiseHere
    rw [h.declared, hpos]
    exact if_pos hq
  rw [h.rule, hend, error_bind]

theorem ReachesEnd.pcmEnd (p : Word) : ({ t with brPos := p } : State).outPtrByte + ({ t with brPos := p } : State).pcmBytes =
    s.outPtrWord.toNat + e.nch * 2 ^ fb * (if s.ctrl.outFmt then 4 else 2) := by
  rw [State.pcmBytes, State.sampleBytes, State.outPtrByte, State.outPtrWord, State.outPtrWord, h.nch, h.fbits, h.ctrl, h.outPtr]

theorem ReachesEnd.rom : t.rom = s.rom := congrArg ValidConfig.rom h.cfg

/-- The declared end of a frame fits the cursor. -/
theorem ReachesEnd.stop_lt (hs : Claims.cursor s ≤ s.limitBits) : stop < 2 ^ 32 := by
  have hlt := frameBytes_lt t
  have hlim := limitBits_le s
  have := h.declared
  omega

variable (hnch : e.nch = 1 ∨ e.nch = 2) (hfb : fb = 7 ∨ fb = 8) (hq : q ≤ stop)
  (hroom : room = s.outPtrWord.toNat + e.nch * 2 ^ fb * (if s.ctrl.outFmt then 4 else 2))
include hnch hfb hq hroom

theorem ReachesEnd.outRange (hs : Claims.cursor s ≤ s.limitBits) (hfull : s.rom.outBufBytes < room) :
    decodeFrameRule s = .error (raiseAt .outRange stop.toNat) := by
  have hsize : sizeOk t.geom.fbits.toNat = true := by rw [h.fbits]; obtain rfl | rfl := hfb <;> rfl
  have hlt := h.stop_lt hs
  have hpos : (Word.ofInt stop).toNat = stop.toNat := by
    have := toNat_ofInt_of_bounds (x := stop) (by omega) hlt
    omega
  have hpcm := PcmOut.pcmOutRule_outRange (s := { t with brPos := Word.ofInt stop }) (by rw [h.nch]; exact hnch) hsize
    (by rw [h.pcmEnd, ← hroom]; exact h.rom ▸ hfull)
  rw [h.rule, h.frameEnd_ok hq, ok_bind, hpcm, error_bind, State.raiseHere, hpos]

theorem ReachesEnd.completes (hfits : room ≤ s.rom.outBufBytes) : ∃ v, decodeFrameRule s = .ok v ∧ v.status = s.status ∧
    v.frameBytes = t.frameBytes ∧ v.outPtrWord.toNat = room ∧ (∀ d, (v.chan d).spec = (t.chan d).spec) ∧
    v.ch1.prev = t.ch1.workPrev := by
  have hsize : sizeOk t.geom.fbits.toNat = true := by rw [h.fbits]; obtain rfl | rfl := hfb <;> rfl
  obtain ⟨u, hu⟩ : ∃ u : State, u = { t with brPos := Word.ofInt stop } := ⟨_, rfl⟩
  have hbytes : u.outPtrByte + u.pcmBytes = room := by rw [hu, h.pcmEnd, hroom]
  have hurom : u.rom = s.rom := by rw [hu]; exact h.rom
  have husize : sizeOk u.geom.fbits.toNat = true := by rw [hu]; exact hsize
  have hpcm := PcmOut.pcmOutRule_ok (s := u) (by rw [hu, h.nch]; exact hnch) husize (by rw [hbytes, hurom]; exact hfits)
  have hend := h.frameEnd_ok hq
  rw [← hu] at hend
  have hout : s.rom.outBufBytes ≤ 131072 := (Common.header_bounds s.cfg).2.1
  have h4 : 4 ∣ u.outPtrByte + u.pcmBytes := (PcmOut.four_dvd_outPtrByte u).add (PcmOut.four_dvd_pcmBytes husize)
  have hrule : decodeFrameRule s = .ok (commit ({ u with outBuf := u.outBuf.putBytes u.outPtrByte u.pcmData }.setOutPtr
      (Word.ofNat (u.outPtrByte + u.pcmBytes)))) := by
    rw [h.rule, hend, ok_bind, hpcm, ok_bind]
  refine ⟨_, hrule, ?_, ?_, ?_, fun d => ?_, ?_⟩
  · rw [← h.status, hu]
    rfl
  · rw [hu]
    rfl
  · rw [← hbytes]
    exact PcmOut.outPtrWord_of_multiple rfl h4 (by omega)
  · rw [hu]
    cases d <;> rfl
  · rw [hu]
    rfl

end

/-- Settles O53: the sub-blocks are decoded one after the other into slots of their own, and then the declared end and the
room for the PCM decide. -/
theorem aReadableFrameCompletesOrReportsItsEnd : Obligations.AReadableFrameCompletesOrReportsItsEnd := by
  intro s p1 p2 p3 body q fb room stop e ns hs _ hl h1 h2 h3 hbody hlim hsync hfb he hns hblocks hstop hroom
  obtain ⟨hmapf, hmapc⟩ := header_maps s.cfg.ok
  have hfb78 := hmapf _ _ hfb
  have hnch := hmapc _ _ he
  have hstart : cursor s ≤ s.limitBits := by omega
  obtain ⟨t, ht⟩ := reachesEnd_readable hl h1 h2 h3 hbody hlim hsync hfb he hns hblocks hstop
  refine ⟨fun hq hfits => ?_, fun hq => ?_, fun hq hfull => ?_⟩
  · obtain ⟨v, hrule, hstatus, hframe, hptr, hspec, hprev⟩ := ht.completes hnch hfb78 hq hroom hfits
    obtain ⟨hconsumed, hpos⟩ := decodeFrameRule_end hrule
    rw [hframe] at hconsumed hpos
    have hdeclared := ht.declared
    refine ⟨_, exec_ok (i := .decodeFrame) hs rfl hrule, by rw [← hstatus]; rfl, ?_, ?_, hptr, fun b l n nqu hb hlt hn hout => ?_,
      fun hone => hprev.trans (ht.idle hone)⟩
    · exact hpos.trans hdeclared
    · rw [complete_bytesConsumed, hconsumed]
      exact eq_sub_of_add_eq' hdeclared
    · have hchan : v.complete.chan (slot (b * e.chb + l)) = v.chan (slot (b * e.chb + l)) := by
        generalize slot (b * e.chb + l) = d
        cases d <;> rfl
      rw [hchan, hspec]
      exact ht.clear b l nqu hb hlt n hn hout
  · obtain ⟨v, hv, hrep, -⟩ := exec_reports (i := .decodeFrame) hs rfl (ht.overrun hq)
    exact ⟨v, hv, hrep⟩
  · obtain ⟨v, hv, hrep, -⟩ := exec_reports (i := .decodeFrame) hs rfl (ht.outRange hnch hfb78 hq hroom hstart hfull)
    exact ⟨v, hv, hrep⟩

end Sys2Proof.Proofs.ReadableFrame
end
